-- ==== Sys2Proof/Word.lean ====
section
/-!
DEFINITION. The word types of the block and the value of a limb sequence (00_scope.md R7, R11, R13).
-/

namespace Sys2Proof

/-- A text byte (10_state.md R28). -/
abbrev Byte := BitVec 8

/-- A 64-bit register value of the window (20_memory.md R61). -/
abbrev Word := BitVec 64

/-- A limb: LIMB_BITS = 64, fixed (00_scope.md R7). -/
abbrev Limb := BitVec 64

/-- `val(N) = Σ N[k] · 2^(64·k)`, least significant limb first (00_scope.md R13). -/
def val : List Limb → Nat
  | [] => 0
  | l :: ls => l.toNat + 2 ^ 64 * val ls

end Sys2Proof
end

