-- ==== Sys2Proof/Syntax.lean ====
section
/-!
DEFINITION. The commands, one constructor per row of spec/opcode_table.json (30_encoding.md R88), and the command
word's raw fields (30_encoding.md R85).
-/

namespace Sys2Proof

/-- A number register's index, 0..15, used as it stands (30_encoding.md R86). -/
abbrev Reg := Fin 16

/-- The seven commands with the operands their form uses (30_encoding.md R87, R88). -/
inductive Instr where
  /-- `ADC`: form F_S (40_limb_primitives.md R105). -/
  | adc
  /-- `MULADD`: form F_S (40_limb_primitives.md R108). -/
  | muladd
  /-- `ADD nD, nA, nB`: form F_DAB (42_add_sub.md R135). -/
  | add (rd ra rb : Reg)
  /-- `SUB nD, nA, nB`: form F_DAB (42_add_sub.md R142). -/
  | sub (rd ra rb : Reg)
  /-- `MUL nD, nA, nB`: form F_DAB (43_mul.md R150). -/
  | mul (rd ra rb : Reg)
  /-- `POW nD, nA`: form F_DA (44_pow.md R163). -/
  | pow (rd ra : Reg)
  /-- `PARSE nD`: form F_D (41_parse.md R115). -/
  | parse (rd : Reg)
deriving DecidableEq, Repr

/-- The operand forms (30_encoding.md R87). -/
inductive Form where
  | scalar  -- F_S
  | dab     -- F_DAB
  | da      -- F_DA
  | d       -- F_D
deriving DecidableEq, Repr

/-- The fields of a 64-bit command word (30_encoding.md R85). -/
structure Fields where
  op  : BitVec 8
  rd  : BitVec 4
  ra  : BitVec 4
  rb  : BitVec 4
  rsv : BitVec 44
deriving DecidableEq, Repr

end Sys2Proof
end

