-- ==== Sys2Proof/WellFormed.lean ====
section
/-!
DEFINITION. Which raw fields make a command: the opcode is defined, RSV is 0 and every field the form does not use is
0 (30_encoding.md R87, R88, R90). An `Instr` needs no check of its own: its register indices are `Fin 16`.
-/

namespace Sys2Proof

/-- The form of a defined opcode (30_encoding.md R88). -/
def formOf (op : BitVec 8) : Option Form :=
  if op = 0x01#8 then some .scalar
  else if op = 0x02#8 then some .scalar
  else if op = 0x10#8 then some .dab
  else if op = 0x11#8 then some .dab
  else if op = 0x12#8 then some .dab
  else if op = 0x13#8 then some .da
  else if op = 0x20#8 then some .d
  else none

/-- The fields a form does not use are 0 (30_encoding.md R87). -/
def Form.unusedZero (f : Fields) : Form → Bool
  | .scalar => f.rd == 0 && f.ra == 0 && f.rb == 0
  | .dab => true
  | .da => f.rb == 0
  | .d => f.ra == 0 && f.rb == 0

/-- The fields are those of a command and not ILLEGAL (30_encoding.md R90). -/
def Fields.WellFormed (f : Fields) : Bool :=
  f.rsv == 0 && match formOf f.op with
    | none => false
    | some form => form.unusedZero f

end Sys2Proof
end

