-- ==== Sys2Proof/Decode.lean ====
section
/-!
DEFINITION. The total decoder of a command word (30_encoding.md R91), and after it the encoder (R89).
-/

namespace Sys2Proof

/-- The fields of a command word (30_encoding.md R85). -/
def fieldsOf (w : Word) : Fields where
  op  := w.extractLsb' 0 8
  rd  := w.extractLsb' 8 4
  ra  := w.extractLsb' 12 4
  rb  := w.extractLsb' 16 4
  rsv := w.extractLsb' 20 44

/-- A 4-bit register field as an index (30_encoding.md R86). -/
def regOf (b : BitVec 4) : Reg := b.toFin

/-- The case analysis of `decode` over the fields (30_encoding.md R91); `none` is ILLEGAL. -/
def decodeFields (f : Fields) : Option Instr :=
  if f.rsv ≠ 0 then none
  else if f.op = 0x01#8 then
    if f.rd ≠ 0 ∨ f.ra ≠ 0 ∨ f.rb ≠ 0 then none else some .adc
  else if f.op = 0x02#8 then
    if f.rd ≠ 0 ∨ f.ra ≠ 0 ∨ f.rb ≠ 0 then none else some .muladd
  else if f.op = 0x10#8 then some (.add (regOf f.rd) (regOf f.ra) (regOf f.rb))
  else if f.op = 0x11#8 then some (.sub (regOf f.rd) (regOf f.ra) (regOf f.rb))
  else if f.op = 0x12#8 then some (.mul (regOf f.rd) (regOf f.ra) (regOf f.rb))
  else if f.op = 0x13#8 then
    if f.rb ≠ 0 then none else some (.pow (regOf f.rd) (regOf f.ra))
  else if f.op = 0x20#8 then
    if f.ra ≠ 0 ∨ f.rb ≠ 0 then none else some (.parse (regOf f.rd))
  else none

/-- `decode(w)`, total; `none` is ILLEGAL (30_encoding.md R91). -/
def decode (w : Word) : Option Instr := decodeFields (fieldsOf w)

/-- The decoder on a table-numbered word: bit 0 of `w` is bit 0 of the command word, bits at and above `nbits` are 0
(30_encoding.md R92: every command is one 64-bit word). -/
def decodeTableWord (nbits w : Nat) : Option Instr := decode (BitVec.ofNat 64 (w % 2 ^ nbits))

/-- The fields of a command, unused ones 0 (30_encoding.md R87, R88). -/
def fields : Instr → Fields
  | .adc => ⟨0x01#8, 0, 0, 0, 0⟩
  | .muladd => ⟨0x02#8, 0, 0, 0, 0⟩
  | .add rd ra rb => ⟨0x10#8, .ofFin rd, .ofFin ra, .ofFin rb, 0⟩
  | .sub rd ra rb => ⟨0x11#8, .ofFin rd, .ofFin ra, .ofFin rb, 0⟩
  | .mul rd ra rb => ⟨0x12#8, .ofFin rd, .ofFin ra, .ofFin rb, 0⟩
  | .pow rd ra => ⟨0x13#8, .ofFin rd, .ofFin ra, 0, 0⟩
  | .parse rd => ⟨0x20#8, .ofFin rd, 0, 0, 0⟩

/-- The word of fields: RSV ++ RB ++ RA ++ RD ++ OP (30_encoding.md R85). -/
def wordOf (f : Fields) : Word := f.rsv ++ f.rb ++ f.ra ++ f.rd ++ f.op

/-- `enc` of a command (30_encoding.md R89). -/
def encode (i : Instr) : Word := wordOf (fields i)

/-- The match value of a command's row (30_encoding.md R88). -/
def rowMatch : Instr → Word
  | .adc => 0x0000000000000001#64
  | .muladd => 0x0000000000000002#64
  | .add .. => 0x0000000000000010#64
  | .sub .. => 0x0000000000000011#64
  | .mul .. => 0x0000000000000012#64
  | .pow .. => 0x0000000000000013#64
  | .parse .. => 0x0000000000000020#64

/-- The mask of a command's row (30_encoding.md R88). -/
def rowMask : Instr → Word
  | .adc => 0xFFFFFFFFFFFFFFFF#64
  | .muladd => 0xFFFFFFFFFFFFFFFF#64
  | .add .. => 0xFFFFFFFFFFF000FF#64
  | .sub .. => 0xFFFFFFFFFFF000FF#64
  | .mul .. => 0xFFFFFFFFFFF000FF#64
  | .pow .. => 0xFFFFFFFFFFFF00FF#64
  | .parse .. => 0xFFFFFFFFFFFFF0FF#64

end Sys2Proof
end

