-- ==== Sys2Proof/Machine/Flags.lean ====
section
/-!
DEFINITION. The two limb primitives and the carry they compute (40_limb_primitives.md). The block has no condition
codes: this is all there is of flags (10_state.md R47).
-/

namespace Sys2Proof.Machine

/-- `adc(a, b, cin)`: the exact total, its low 64 bits, and whether it exceeds 2^64 − 1 (40_limb_primitives.md R104). -/
def adc (a b : Limb) (cin : BitVec 1) : Limb × BitVec 1 :=
  let t := a.toNat + b.toNat + cin.toNat
  (BitVec.ofNat 64 t, if t > 2 ^ 64 - 1 then 1#1 else 0#1)

/-- The source's bitwise identity for the carry out of bit 63 (40_limb_primitives.md R106). -/
def carryIdentity (a b sum : Limb) : BitVec 1 :=
  (((a &&& b) ||| ((a ||| b) &&& ~~~ sum)) >>> 63).setWidth 1

/-- `muladd(a, b, acc)`: the low and high halves of the exact a·b + acc (40_limb_primitives.md R107). -/
def muladd (a b acc : Limb) : Limb × Limb :=
  let v := a.toNat * b.toNat + acc.toNat
  (BitVec.ofNat 64 v, BitVec.ofNat 64 (v / 2 ^ 64))

end Sys2Proof.Machine
end

