-- ==== Sys2Proof/Config.lean ====
section
/-!
DEFINITION. What an implementation fixes (MAX_LIMBS, WINDOW_BASE), the constants of the register window, and the
free values. An `opaque` constant here has no body: nothing in Lean can say what it is, so a statement that mentions
one holds for every value of it.
-/

namespace Sys2Proof.Config

/-- The implementation's choice of MAX_LIMBS, counted from the smallest value the spec allows.
OPEN parameter (00_scope.md R9, 92_eei_decisions.md D4). DESIGN CHOICE, safe: log 4. -/
opaque maxLimbsChoice : Nat

/-- MAX_LIMBS, some number with 32 ≤ MAX_LIMBS ≤ 4096 (00_scope.md R9). Every number of that range is some choice's. -/
def maxLimbs : Nat := maxLimbsChoice % 4065 + 32

/-- WINDOW_BASE, the platform's OPEN parameter (20_memory.md R60, 92_eei_decisions.md D11). DESIGN CHOICE, safe: log 5. -/
opaque windowBase : Nat

/-- The size of the host window in bytes (20_memory.md R60). -/
def windowSize : Nat := 0x20000

/-- The ID register's constant (10_state.md R31). -/
def idWord : Word := 0x41524954484D4F53#64

/-- NREG, LIMB_BITS and EXP_BITS as PARAM reports them (10_state.md R32). -/
def nreg : BitVec 8 := 16#8
def limbBits : BitVec 8 := 64#8
def expBits : BitVec 8 := 64#8

/-- FREE VALUE: what the `d`-th consultation finds in text byte `k` when nothing has written it since reset
(10_state.md R49, 93_implementation_defined.md item 8). Safe: log 6. -/
opaque freeTextByte (d k : Nat) : Byte

/-- FREE VALUE: what the `d`-th consultation reads from the destination of a running command
(70_reset_and_hazards.md R207, 93_implementation_defined.md item 10). Safe: log 7. -/
opaque freeRead (d : Nat) : Word

end Sys2Proof.Config
end

