-- ==== Sys2Proof/Machine/State.lean ====
section
/-!
DEFINITION. The machine's state as plain data (10_state.md), the events the outside world sends, the reasons a step can
stop, and the state after reset (10_state.md R49).
-/

namespace Sys2Proof.Machine

/-- The engine's control state (10_state.md R22). -/
inductive Engine where
  | idle
  | running
deriving DecidableEq, Repr

/-- STATUS.ERRCODE's five codes (60_exceptions.md R181). The codes 0x05–0xFF are never reported, so no value stands for
one (93_implementation_defined.md item 17; log 23). -/
inductive ErrCode where
  | none
  | illegal
  | unwritten
  | capacity
  | parse
deriving DecidableEq, Repr

/-- A number register: VALID, and the limb sequence LIMB[0..LEN−1] with LEN its length (10_state.md R21). The limbs at
index ≥ LEN are read by no rule and not held (10_state.md R24; log 13). -/
structure NumReg where
  valid : Bool
  limbs : List Limb
deriving DecidableEq, Repr

/-- What a host access does: read, or write a 64-bit value (20_memory.md R65). -/
inductive AccessKind where
  | read
  | write (v : Word)
deriving DecidableEq, Repr

/-- A host access: its kind, its width in bytes and its byte offset in the host window (20_memory.md R60, R63). -/
structure Access where
  kind  : AccessKind
  width : Nat
  off   : Nat
deriving DecidableEq, Repr

/-- One event of the block's total order (20_memory.md R67). -/
inductive Event where
  /-- A host access (20_memory.md R63). -/
  | access (a : Access)
  /-- The engine's turn: it completes the running command, if there is one (10_state.md R42). -/
  | engineTurn
  /-- The platform reset input is asserted and released (70_reset_and_hazards.md R200). -/
  | reset
deriving DecidableEq, Repr

/-- What the block answers to a host access (20_memory.md R63, R65). -/
inductive Response where
  /-- The whole 64-bit value a read returns. -/
  | data (v : Word)
  /-- A write was taken in; whether it was dropped or ignored does not show in the response. -/
  | written
  /-- The error response of an access error, with its read data (60_exceptions.md R190). -/
  | accessFault (rdata : Word)
deriving DecidableEq, Repr

/-- A memory: (address, byte) cells in strictly rising order of address. -/
abbrev Memory := List Host.Cell

/-- The state of the block (10_state.md), and three fields of the model's own: `inputs`, `responses`, `draws`. -/
structure State where
  /-- MAX_LIMBS, the implementation's parameter that PARAM reports (00_scope.md R9, 10_state.md R32). -/
  maxLimbs : Nat
  /-- ENGINE; STATUS.BUSY is 1 exactly when it is running (10_state.md R22). -/
  engine : Engine
  /-- STATUS.DONE (10_state.md R34). -/
  done : Bool
  /-- STATUS.OVERRUN (10_state.md R34). -/
  overrun : Bool
  /-- STATUS.ERRCODE (10_state.md R34). -/
  errCode : ErrCode
  /-- STATUS.ERRINFO (60_exceptions.md R182). -/
  errInfo : BitVec 32
  /-- CMD, the last accepted command word (10_state.md R33). -/
  cmd : Word
  /-- SA and SB, operands a and b of ADC and MULADD (10_state.md R25). -/
  sa : Word
  sb : Word
  /-- SCIN, carryIn of ADC (10_state.md R25, R36). -/
  scin : BitVec 1
  /-- SACC, acc of MULADD (10_state.md R25). -/
  sacc : Word
  /-- SLO and SHI, the results of ADC and MULADD (10_state.md R25). -/
  slo : Word
  shi : Word
  /-- EXP, the exponent of POW (10_state.md R26). -/
  exp : Word
  /-- TEXT_LEN (10_state.md R28, R37). -/
  textLen : BitVec 32
  /-- NSEL (10_state.md R29). -/
  nsel : Reg
  /-- x[0..15] (10_state.md R21). -/
  x : Vector NumReg 16
  /-- TEXT: the bytes written since reset, by index (10_state.md R28, R49). -/
  text : Memory
  /-- The model's own: the events still to come, in their total order (20_memory.md R67; log 1). -/
  inputs : List Event
  /-- The model's own: the responses so far, newest first (log 9). -/
  responses : List Response
  /-- The model's own: how often a free value has been consulted (log 8). -/
  draws : Nat
deriving DecidableEq, Repr

/-- No condition stops the block (60_exceptions.md R175), and a host's access error is a recorded response after which
the block goes on (60_exceptions.md R190; log 9). So no step faults and the type has no constructor. -/
inductive Fault where
deriving DecidableEq, Repr

/-- Why the model gives no meaning. -/
inductive Refusal where
  /-- Raised by an arm of `exec` for an instruction that has no meaning yet; no arm raises it. Safe. -/
  | notModelled (mnemonic : String)
  /-- Raised by a host access at an offset at or above 0x20000, which is not this block's address space
  (20_memory.md R66, 93_implementation_defined.md item 14; log 10). Safe. -/
  | outsideWindow (off : Nat)
deriving DecidableEq, Repr

/-- An unwritten number register (10_state.md R23, R49). -/
def NumReg.unwritten : NumReg := ⟨false, []⟩

/-- The state after reset (10_state.md R49). -/
def State.reset : State where
  maxLimbs := Config.maxLimbs
  engine := .idle
  done := false
  overrun := false
  errCode := .none
  errInfo := 0
  cmd := 0
  sa := 0
  sb := 0
  scin := 0
  sacc := 0
  slo := 0
  shi := 0
  exp := 0
  textLen := 0
  nsel := 0
  x := Vector.replicate 16 NumReg.unwritten
  text := []
  inputs := []
  responses := []
  draws := 0

end Sys2Proof.Machine
end

