-- ==== Sys2Proof/Machine/Ops.lean ====
section
/-!
DEFINITION. The named operations over memory and registers: TEXT bytes, number registers, accepting a command,
raising an error, completing a command, the STATUS word and the platform reset.
-/

namespace Sys2Proof.Machine

/-! ### Memory -/

/-- What an address no cell lists reads as: no value. The reader draws a free one (log 6). -/
def Memory.unlisted : Option Byte := none

/-- The byte at an address. -/
def Memory.read : Memory → Nat → Option Byte
  | [], _ => Memory.unlisted
  | (a, b) :: m, k => if k = a then some b else Memory.read m k

/-- Write one byte, keeping the cells in strictly rising order. -/
def Memory.write : Memory → Nat → Byte → Memory
  | [], k, v => [(k, v)]
  | (a, b) :: m, k, v =>
    if k < a then (k, v) :: (a, b) :: m
    else if k = a then (k, v) :: m
    else (a, b) :: Memory.write m k v

/-- Write consecutive bytes from an address up. -/
def Memory.writeBytes : Memory → Nat → List Byte → Memory
  | m, _, [] => m
  | m, k, b :: bs => Memory.writeBytes (Memory.write m k b) (k + 1) bs

/-- Every address is at or above `k`, in strictly rising order. -/
def Memory.risingFrom : Nat → Memory → Bool
  | _, [] => true
  | k, (a, _) :: m => decide (k ≤ a) && Memory.risingFrom (a + 1) m

/-- The canonical form: strictly rising addresses. An unlisted address has no value, so no cell can equal it. -/
def Memory.wf (m : Memory) : Bool := Memory.risingFrom 0 m

/-- Every listed address lies below `n`. -/
def Memory.below (n : Nat) (m : Memory) : Bool := m.all fun c => decide (c.1 < n)

/-! ### Registers -/

/-- MAX_TEXT = 16 · MAX_LIMBS (10_state.md R28). -/
def State.maxText (s : State) : Nat := 16 * s.maxLimbs

/-- `x[i]` (00_scope.md R12). -/
def State.num (s : State) (i : Reg) : NumReg := s.x[i.val]

/-- LEN of a number register (10_state.md R21). -/
def NumReg.len (r : NumReg) : Nat := r.limbs.length

/-- `x[i] <- N`: VALID <- 1, LEN <- len(N), LIMB <- N (00_scope.md R12). -/
def State.setNum (s : State) (i : Reg) (n : List Limb) : State :=
  { s with x := s.x.set i.val ⟨true, n⟩ }

/-- `SLO <- lo ; SHI <- hi` (40_limb_primitives.md R105, R108). -/
def State.setScalars (s : State) (lo hi : Word) : State := { s with slo := lo, shi := hi }

/-- STATUS.BUSY: 1 exactly when ENGINE = RUNNING (10_state.md R22). -/
def State.busy (s : State) : Bool :=
  match s.engine with
  | .idle => false
  | .running => true

/-- The byte ERRCODE holds for a code (60_exceptions.md R181). -/
def ErrCode.byte : ErrCode → BitVec 8
  | .none => 0x00#8
  | .illegal => 0x01#8
  | .unwritten => 0x02#8
  | .capacity => 0x03#8
  | .parse => 0x04#8

/-- STATUS as it reads: ERRINFO, 0, ERRCODE, 0, OVERRUN, DONE, BUSY (10_state.md R34). -/
def State.status (s : State) : Word :=
  s.errInfo ++ 0#16 ++ s.errCode.byte ++ 0#5 ++ BitVec.ofBool s.overrun ++ BitVec.ofBool s.done ++ BitVec.ofBool s.busy

/-- PARAM as it reads (10_state.md R32). -/
def State.param (s : State) : Word :=
  0#24 ++ Config.expBits ++ Config.limbBits ++ Config.nreg ++ BitVec.ofNat 16 s.maxLimbs

/-- Advance the counter of consultations of the free values (log 8). -/
def State.drawn (s : State) : State := { s with draws := s.draws + 1 }

/-! ### The life of a command -/

/-- The command word `v` is accepted (10_state.md R40). -/
def State.accept (s : State) (v : Word) : State :=
  { s with cmd := v, engine := .running, done := false, errCode := .none, errInfo := 0 }

/-- The errors a command's rule raises (60_exceptions.md R181). -/
inductive CmdError where
  | illegal
  | unwritten (r : Reg)
  | capacity
  | parse (k : Nat)
deriving DecidableEq, Repr

/-- The code of an error (60_exceptions.md R181). -/
def CmdError.code : CmdError → ErrCode
  | .illegal => .illegal
  | .unwritten _ => .unwritten
  | .capacity => .capacity
  | .parse _ => .parse

/-- The info of an error (60_exceptions.md R182). -/
def CmdError.info : CmdError → BitVec 32
  | .illegal => 0
  | .unwritten r => BitVec.ofNat 32 r.val
  | .capacity => 0
  | .parse k => BitVec.ofNat 32 k

/-- The end of every completion step: BUSY <- 0, DONE <- 1, ENGINE <- IDLE (10_state.md R42). -/
def State.finish (s : State) (code : ErrCode) (info : BitVec 32) : State :=
  { s with errCode := code, errInfo := info, done := true, engine := .idle }

/-- `raise Error(code, info)`: nothing is written but STATUS, and the command completes (60_exceptions.md R180). -/
def State.raise (s : State) (e : CmdError) : State := s.finish e.code e.info

/-- How a command's rule ends: with a number for `x[rd]`, with SLO and SHI, or with an error (10_state.md R42). -/
inductive CmdResult where
  | number (rd : Reg) (n : List Limb)
  | scalars (lo hi : Word)
  | error (e : CmdError)
deriving DecidableEq, Repr

/-- The completion step, given how the command's rule ends on the current state (10_state.md R42). -/
def State.complete (s : State) : CmdResult → State
  | .number rd n => (s.setNum rd n).finish .none 0
  | .scalars lo hi => (s.setScalars lo hi).finish .none 0
  | .error e => s.raise e

/-! ### Reset -/

/-- Every piece of the block's state takes its reset value; a running command is abandoned (70_reset_and_hazards.md
R200, R201). MAX_LIMBS is no register; the model's own fields stay (log 24). -/
def State.platformReset (s : State) : State :=
  { State.reset with
    maxLimbs := s.maxLimbs, inputs := s.inputs, responses := s.responses, draws := s.draws }

end Sys2Proof.Machine
end

