-- ==== Sys2Proof/Machine/Operands.lean ====
section
/-!
DEFINITION. The operand forms of the commands: valid number registers as sources, limbs padded with zeros, the text
PARSE reads (30_encoding.md R86, R87).
-/

namespace Sys2Proof.Machine

/-- `N[k]`, 0 for k ≥ len(N) (00_scope.md R13). -/
def limbAt (n : List Limb) (k : Nat) : Limb := n.getD k 0

/-- `N` padded with 0 to `n` limbs: limbs 0..n−1 of N (00_scope.md R13). -/
def padded (n : Nat) (limbs : List Limb) : List Limb := (List.range n).map (limbAt limbs)

/-- A source number register: its limb sequence, or UNWRITTEN with its index (60_exceptions.md R184). -/
def State.source (s : State) (r : Reg) : Except CmdError (List Limb) :=
  if (s.num r).valid then .ok (s.num r).limbs else .error (.unwritten r)

/-- One source: form F_DA (30_encoding.md R87). -/
def withSource (s : State) (ra : Reg) (rule : List Limb → CmdResult) : CmdResult :=
  match s.source ra with
  | .error e => .error e
  | .ok a => rule a

/-- Two sources, RA checked before RB: form F_DAB (30_encoding.md R87, 60_exceptions.md R187). -/
def withSources (s : State) (ra rb : Reg) (rule : List Limb → List Limb → CmdResult) : CmdResult :=
  withSource s ra fun a => withSource s rb fun b => rule a b

/-- TEXT[k] as one consultation finds it: the byte written, or a free value if nothing has written it since reset
(10_state.md R49; log 6). -/
def State.textByte (s : State) (k : Nat) : Byte :=
  (Memory.read s.text k).getD (Config.freeTextByte s.draws k)

/-- TEXT[0..t−1] (10_state.md R28). -/
def State.textOf (s : State) (t : Nat) : List Byte := (List.range t).map s.textByte

end Sys2Proof.Machine
end

