-- ==== Sys2Proof/Machine/AddSub.lean ====
section
/-!
DEFINITION. ADD and SUB: `adc` chained over the limbs (42_add_sub.md).
-/

namespace Sys2Proof.Machine

/-- `adc` limb by limb, least significant first, the carry passed on: the limbs and the last carry
(42_add_sub.md R136, R143). -/
def adcChain : List Limb → List Limb → BitVec 1 → List Limb × BitVec 1
  | a :: as, b :: bs, c =>
    let r := adc a b c
    let rest := adcChain as bs r.2
    (r.1 :: rest.1, rest.2)
  | _, _, c => ([], c)

/-- `add(A, B)`: the chain over max(len(A), len(B)) limbs, and one further limb 1 if a carry remains
(42_add_sub.md R136). -/
def add (a b : List Limb) : List Limb :=
  let n := max a.length b.length
  let r := adcChain (padded n a) (padded n b) 0#1
  if r.2 = 1#1 then r.1 ++ [1] else r.1

/-- `sub(A, B)`: B padded, then complemented, with an initial carry of 1; the last carry is discarded
(42_add_sub.md R143). -/
def sub (a b : List Limb) : List Limb :=
  let n := max a.length b.length
  (adcChain (padded n a) ((padded n b).map fun l => ~~~ l) 1#1).1

/-- The rule of ADD (42_add_sub.md R135). -/
def addRule (rd ra rb : Reg) (s : State) : CmdResult :=
  withSources s ra rb fun a b =>
    let c := add a b
    if c.length > s.maxLimbs then .error .capacity else .number rd c

/-- ADD (42_add_sub.md R135). -/
def execAdd (rd ra rb : Reg) (s : State) : Host.Outcome State Fault Refusal :=
  .next (s.complete (addRule rd ra rb s))

/-- The rule of SUB (42_add_sub.md R142). -/
def subRule (rd ra rb : Reg) (s : State) : CmdResult :=
  withSources s ra rb fun a b => .number rd (sub a b)

/-- SUB (42_add_sub.md R142). -/
def execSub (rd ra rb : Reg) (s : State) : Host.Outcome State Fault Refusal :=
  .next (s.complete (subRule rd ra rb s))

end Sys2Proof.Machine
end

