-- ==== Sys2Proof/Machine/Mul.lean ====
section
/-!
DEFINITION. MUL: schoolbook multiplication (43_mul.md).
-/

namespace Sys2Proof.Machine

/-- The inner loop of one outer iteration, over the limbs of B, on the result from position i up: the list's head is
C[i+j]. After the loop the head is C[i+lb] and takes (ac + mc) mod 2^64, a plain write (43_mul.md R151, R153). -/
def mulInner (a : Limb) : List Limb → List Limb → Limb → BitVec 1 → List Limb
  | b :: bs, c :: cs, mc, ac =>
    let m := muladd a b mc
    let r := adc c m.1 ac
    r.1 :: mulInner a bs cs m.2 r.2
  | [], _ :: cs, mc, ac => BitVec.ofNat 64 (ac.toNat + mc.toNat) :: cs
  | _, [], _, _ => []

/-- The outer loop over the limbs of A, on the result from position i up; position i is final once iteration i is
done. Both carries start at 0 in every iteration (43_mul.md R151, R154). -/
def mulOuter : List Limb → List Limb → List Limb → List Limb
  | [], _, c => c
  | a :: as, b, c =>
    match mulInner a b c 0 0 with
    | [] => []
    | low :: rest => low :: mulOuter as b rest

/-- `mul(A, B)`, from a result of la + lb limbs, all 0 (43_mul.md R151). -/
def mul (a b : List Limb) : List Limb := mulOuter a b (List.replicate (a.length + b.length) 0)

/-- The rule of MUL: the capacity check depends on the lengths only (43_mul.md R150, R155). -/
def mulRule (rd ra rb : Reg) (s : State) : CmdResult :=
  withSources s ra rb fun a b =>
    if a.length + b.length > s.maxLimbs then .error .capacity else .number rd (mul a b)

/-- MUL (43_mul.md R150). -/
def execMul (rd ra rb : Reg) (s : State) : Host.Outcome State Fault Refusal :=
  .next (s.complete (mulRule rd ra rb s))

end Sys2Proof.Machine
end

