-- ==== Sys2Proof/Machine/Parse.lean ====
section
/-!
DEFINITION. PARSE: hexadecimal text to limbs (41_parse.md), and the host-side text function FormatHex (41_parse.md R128).
-/

namespace Sys2Proof.Machine

/-- `hexval(c)`, none for a byte that is no hex digit. The byte codes are ASCII, which the rule marks as general
knowledge (41_parse.md R116; log 18). -/
def hexval (c : Byte) : Option Nat :=
  if 0x30 ≤ c.toNat ∧ c.toNat ≤ 0x39 then some (c.toNat - 0x30)
  else if 0x41 ≤ c.toNat ∧ c.toNat ≤ 0x46 then some (c.toNat - 0x41 + 10)
  else if 0x61 ≤ c.toNat ∧ c.toNat ≤ 0x66 then some (c.toNat - 0x61 + 10)
  else none

/-- The least index, counted from `i`, of a byte that is no hex digit (41_parse.md R117, R122). -/
def firstBad : Nat → List Byte → Option Nat
  | _, [] => none
  | i, c :: cs => if (hexval c).isNone then some i else firstBad (i + 1) cs

/-- The number a digit string spells, most significant digit first, going on from `acc` (41_parse.md R117). -/
def digitsFrom (acc : Nat) : List Byte → Nat
  | [] => acc
  | c :: cs => digitsFrom (acc * 16 + (hexval c).getD 0) cs

/-- Group `g` of the text: the `g`-th 16 bytes from the right, the leftmost one shorter (41_parse.md R117). -/
def group (t : List Byte) (g : Nat) : List Byte :=
  let hi := t.length - 16 * g
  let lo := t.length - 16 * (g + 1)
  (t.take hi).drop lo

/-- The number of groups, ceil(t / 16) (41_parse.md R117). -/
def groupCount (t : List Byte) : Nat := (t.length + 15) / 16

/-- The limbs of a text of hex digits, one per group, least significant first (41_parse.md R117). -/
def limbsOfText (t : List Byte) : List Limb :=
  (List.range (groupCount t)).map fun g => BitVec.ofNat 64 (digitsFrom 0 (group t g))

/-- `parse(T)`: the whole text is checked before any limb is built (41_parse.md R117). -/
def parse (t : List Byte) : Except CmdError (List Limb) :=
  match firstBad 0 t with
  | some i => .error (.parse i)
  | none => .ok (limbsOfText t)

/-- The rule of PARSE: CAPACITY is checked before any byte (41_parse.md R115, R121). -/
def parseRule (rd : Reg) (s : State) : CmdResult :=
  let t := s.textLen.toNat
  if t > s.maxText then .error .capacity
  else match parse (s.textOf t) with
    | .error e => .error e
    | .ok n => .number rd n

/-- PARSE (41_parse.md R115). It consults the free text bytes once, so the draw counter advances (log 8). -/
def execParse (rd : Reg) (s : State) : Host.Outcome State Fault Refusal :=
  .next (s.complete (parseRule rd s)).drawn

/-! ### FormatHex, a host-side function (log 19) -/

/-- The upper-case hex digit of a value below 16 (41_parse.md R116, R128). -/
def hexDigit (n : Nat) : Byte := if n < 10 then BitVec.ofNat 8 (0x30 + n) else BitVec.ofNat 8 (0x41 + (n - 10))

/-- The `n`-character upper-case spelling of a number, zero-padded on the left (41_parse.md R128). -/
def spell : Nat → Nat → List Byte
  | 0, _ => []
  | n + 1, v => spell n (v / 16) ++ [hexDigit (v % 16)]

/-- The limbs' spellings, most significant limb first (41_parse.md R128). -/
def spellLimbs : List Limb → List Byte
  | [] => []
  | l :: ls => spellLimbs ls ++ spell 16 l.toNat

/-- `FormatHex(N)`: every leading '0' removed (41_parse.md R128). -/
def formatHex (n : List Limb) : List Byte := (spellLimbs n).dropWhile fun c => c == 0x30#8

end Sys2Proof.Machine
end

