-- ==== Sys2Proof/Machine/Pow.lean ====
section
/-!
DEFINITION. POW: square-and-multiply, least significant exponent bit first (44_pow.md).
-/

namespace Sys2Proof.Machine

/-- The loop of `pow`, at most `n` times round (44_pow.md R164). -/
def powLoop : Nat → List Limb → List Limb → Word → List Limb
  | 0, result, _, _ => result
  | n + 1, result, base, e =>
    let result := if e.getLsbD 0 then mul result base else result
    let e := e >>> 1
    if e = 0 then result else powLoop n result (mul base base) e

/-- `pow(Base, e)`: the result starts at [0x1], and a 64-bit exponent takes at most 64 rounds (44_pow.md R164, R165). -/
def pow (base : List Limb) (e : Word) : List Limb := powLoop 64 [1] base e

/-- The rule of POW: the capacity check is on the exact integer 1 + LEN · EXP (44_pow.md R163, R167). -/
def powRule (rd ra : Reg) (s : State) : CmdResult :=
  withSource s ra fun base =>
    if 1 + base.length * s.exp.toNat > s.maxLimbs then .error .capacity else .number rd (pow base s.exp)

/-- POW (44_pow.md R163). -/
def execPow (rd ra : Reg) (s : State) : Host.Outcome State Fault Refusal :=
  .next (s.complete (powRule rd ra s))

end Sys2Proof.Machine
end

