-- ==== Sys2Proof/Machine/Scalar.lean ====
section
/-!
DEFINITION. ADC and MULADD: the limb primitives over the scalar registers (40_limb_primitives.md).
-/

namespace Sys2Proof.Machine

/-- The rule of ADC (40_limb_primitives.md R105). -/
def adcRule (s : State) : CmdResult :=
  let r := adc s.sa s.sb s.scin
  .scalars r.1 (r.2.setWidth 64)

/-- ADC (40_limb_primitives.md R105). -/
def execAdc (s : State) : Host.Outcome State Fault Refusal := .next (s.complete (adcRule s))

/-- The rule of MULADD (40_limb_primitives.md R108). -/
def muladdRule (s : State) : CmdResult :=
  let r := muladd s.sa s.sb s.sacc
  .scalars r.1 r.2

/-- MULADD (40_limb_primitives.md R108). -/
def execMuladd (s : State) : Host.Outcome State Fault Refusal := .next (s.complete (muladdRule s))

end Sys2Proof.Machine
end

