-- ==== Sys2Proof/Machine/Dispatch.lean ====
section
/-!
DEFINITION. The engine's completion of each command (10_state.md R42), one arm per row of the opcode table.
-/

namespace Sys2Proof.Machine

def exec (i : Instr) (s : State) : Host.Outcome State Fault Refusal :=
  match i with
  | .adc => Sys2Proof.Machine.execAdc s
  | .muladd => Sys2Proof.Machine.execMuladd s
  | .add rd ra rb => Sys2Proof.Machine.execAdd rd ra rb s
  | .sub rd ra rb => Sys2Proof.Machine.execSub rd ra rb s
  | .mul rd ra rb => Sys2Proof.Machine.execMul rd ra rb s
  | .pow rd ra => Sys2Proof.Machine.execPow rd ra s
  | .parse rd => Sys2Proof.Machine.execParse rd s

end Sys2Proof.Machine
end

