-- ==== Sys2Proof/Machine/Window.lean ====
section
/-!
DEFINITION. The host's side: the register window, its reads and writes (10_state.md R30 to R46, 20_memory.md).
-/

namespace Sys2Proof.Machine

/-- What stands at an offset of the window (10_state.md R30). -/
inductive WinReg where
  | id
  | param
  | cmd
  | status
  | sa
  | sb
  | scin
  | sacc
  | slo
  | shi
  | exp
  | textLen
  | nsel
  | ninfo
  | reserved
  | limb (k : Nat)
  | textw (k : Nat)
deriving DecidableEq, Repr

/-- The register at the `n`-th 8-byte offset below 0x8000 (10_state.md R30, R45). -/
def controlReg : Nat → WinReg
  | 0 => .id
  | 1 => .param
  | 2 => .cmd
  | 3 => .status
  | 4 => .sa
  | 5 => .sb
  | 6 => .scin
  | 7 => .sacc
  | 8 => .slo
  | 9 => .shi
  | 10 => .exp
  | 11 => .textLen
  | 12 => .nsel
  | 13 => .ninfo
  | _ => .reserved

/-- The register at an 8-byte-aligned offset of the window (10_state.md R30). -/
def winReg (off : Nat) : WinReg :=
  if off < 0x8000 then controlReg (off / 8)
  else if off < 0x10000 then .limb ((off - 0x8000) / 8)
  else .textw ((off - 0x10000) / 8)

/-- The offset of a register of the window (10_state.md R30); `reserved` stands for its first offset. -/
def WinReg.offset : WinReg → Nat
  | .id => 0x0000
  | .param => 0x0008
  | .cmd => 0x0010
  | .status => 0x0018
  | .sa => 0x0020
  | .sb => 0x0028
  | .scin => 0x0030
  | .sacc => 0x0038
  | .slo => 0x0040
  | .shi => 0x0048
  | .exp => 0x0050
  | .textLen => 0x0058
  | .nsel => 0x0060
  | .ninfo => 0x0068
  | .reserved => 0x0070
  | .limb k => 0x8000 + 8 * k
  | .textw k => 0x10000 + 8 * k

/-! ### Reads -/

/-- NINFO: VALID above the 32 bits of LEN, all 0 for an unwritten register (10_state.md R39). -/
def ninfoOf (r : NumReg) : Word :=
  if r.valid then 0#31 ++ 1#1 ++ BitVec.ofNat 32 r.len else 0

/-- LIMB[k] of a register, 0 past LEN or when it is unwritten (10_state.md R43). -/
def limbOf (r : NumReg) (k : Nat) : Word :=
  if r.valid = true ∧ k < r.len then limbAt r.limbs k else 0

/-- Eight text bytes as one value, the first in the least significant place (20_memory.md R62). -/
def packBytes : List Byte → Nat
  | [] => 0
  | b :: bs => b.toNat + 256 * packBytes bs

/-- TEXTW[k] as one consultation finds it (10_state.md R44). -/
def State.textWord (s : State) (k : Nat) : Word :=
  BitVec.ofNat 64 (packBytes ((List.range 8).map fun m => s.textByte (8 * k + m)))

/-- The opcode and the RD field of the running command, as R207 reads them (70_reset_and_hazards.md R207). -/
def State.runningOp (s : State) : BitVec 8 := s.cmd.extractLsb' 0 8

def State.runningRd (s : State) : BitVec 4 := s.cmd.extractLsb' 8 4

/-- SLO and SHI are the running command's destination (70_reset_and_hazards.md R207). -/
def State.scalarsPending (s : State) : Bool :=
  s.busy && (s.runningOp == 0x01#8 || s.runningOp == 0x02#8)

/-- x[NSEL] is the running command's destination (70_reset_and_hazards.md R207). -/
def State.selectedPending (s : State) : Bool :=
  s.busy &&
    (s.runningOp == 0x10#8 || s.runningOp == 0x11#8 || s.runningOp == 0x12#8 || s.runningOp == 0x13#8 ||
      s.runningOp == 0x20#8) &&
    s.runningRd == BitVec.ofFin s.nsel

/-- The read of this register returns any value (70_reset_and_hazards.md R207); LIMB[k] beyond MAX_LIMBS always reads 0
(10_state.md R43; log 12). -/
def State.readsAnyValue (s : State) : WinReg → Bool
  | .slo | .shi => s.scalarsPending
  | .ninfo => s.selectedPending
  | .limb k => s.selectedPending && decide (k < s.maxLimbs)
  | .id | .param | .cmd | .status | .sa | .sb | .scin | .sacc | .exp | .textLen | .nsel | .reserved | .textw _ => false

/-- What a register reads as when its value is settled (10_state.md R31 to R46, 70_reset_and_hazards.md R208). -/
def State.settledRead (s : State) : WinReg → Word
  | .id => Config.idWord
  | .param => s.param
  | .cmd => s.cmd
  | .status => s.status
  | .sa => s.sa
  | .sb => s.sb
  | .scin => s.scin.setWidth 64
  | .sacc => s.sacc
  | .slo => s.slo
  | .shi => s.shi
  | .exp => s.exp
  | .textLen => s.textLen.setWidth 64
  | .nsel => BitVec.ofNat 64 s.nsel.val
  | .ninfo => ninfoOf (s.num s.nsel)
  | .reserved => 0
  | .limb k => if k < s.maxLimbs then limbOf (s.num s.nsel) k else 0
  | .textw k => if 8 * k < s.maxText then s.textWord k else 0

/-- The value a host read returns: any value for the running command's destination, drawn afresh
(70_reset_and_hazards.md R207; log 7). -/
def State.hostRead (s : State) (r : WinReg) : Word :=
  if s.readsAnyValue r then Config.freeRead s.draws else s.settledRead r

/-! ### Writes -/

/-- A host write to an operand register: done while BUSY = 0, dropped with OVERRUN <- 1 while BUSY = 1
(10_state.md R41). -/
def State.unlessBusy (s : State) (write : State → State) : State :=
  if s.busy then { s with overrun := true } else write s

/-- The eight bytes of a TEXTW value, the least significant first (20_memory.md R62). -/
def bytesOf (v : Word) : List Byte := (List.range 8).map fun m => v.extractLsb' (8 * m) 8

/-- A host write of `v` to a register of the window (10_state.md R35 to R46). -/
def State.hostWrite (s : State) (r : WinReg) (v : Word) : State :=
  match r with
  | .cmd => s.unlessBusy fun s => s.accept v
  | .status => if v.getLsbD 2 then { s with overrun := false } else s
  | .sa => s.unlessBusy fun s => { s with sa := v }
  | .sb => s.unlessBusy fun s => { s with sb := v }
  | .scin => s.unlessBusy fun s => { s with scin := v.setWidth 1 }
  | .sacc => s.unlessBusy fun s => { s with sacc := v }
  | .exp => s.unlessBusy fun s => { s with exp := v }
  | .textLen => s.unlessBusy fun s => { s with textLen := v.setWidth 32 }
  | .nsel => { s with nsel := regOf (v.setWidth 4) }
  | .textw k =>
    -- R41: any TEXTW[k] write is dropped while BUSY = 1; R44: beyond MAX_TEXT an idle one is ignored (log 11).
    s.unlessBusy fun s =>
      if 8 * k < s.maxText then { s with text := Memory.writeBytes s.text (8 * k) (bytesOf v) } else s
  | .id | .param | .slo | .shi | .ninfo | .reserved | .limb _ => s

/-! ### Accesses -/

/-- An access error: a width other than 8 bytes, or an offset that is no multiple of 8 (20_memory.md R63). -/
def Access.isError (a : Access) : Bool := a.width != 8 || a.off % 8 != 0

/-- The response is added to the log; nothing else changes (log 9). -/
def State.respond (s : State) (r : Response) : State := { s with responses := r :: s.responses }

/-- One host access (20_memory.md R63, R65, R66; 60_exceptions.md R190). -/
def State.hostAccess (s : State) (a : Access) : Host.Outcome State Fault Refusal :=
  if a.off ≥ Config.windowSize then .refused (.outsideWindow a.off)
  else if a.isError then .next (s.respond (.accessFault 0))
  else match a.kind with
    | .read => .next (s.respond (.data (s.hostRead (winReg a.off)))).drawn
    | .write v => .next ((s.hostWrite (winReg a.off) v).respond .written)

/-- The access a platform address stands for: the block sees offsets from WINDOW_BASE (20_memory.md R60; log 5).
An address below WINDOW_BASE, like one at or above its end, is not the block's. -/
def Access.atAddress (kind : AccessKind) (width addr : Nat) : Option Access :=
  if Config.windowBase ≤ addr ∧ addr < Config.windowBase + Config.windowSize then
    some ⟨kind, width, addr - Config.windowBase⟩
  else none

end Sys2Proof.Machine
end

