-- ==== Sys2Proof/Machine/Engine.lean ====
section
/-!
DEFINITION. One event of the block: a host access, the engine's completion step, or a platform reset
(10_state.md R20, R42; 20_memory.md R67).
-/

namespace Sys2Proof.Machine

/-- The engine's step when ENGINE = RUNNING: decode CMD and complete, with ILLEGAL for a word that is no command
(10_state.md R42, 30_encoding.md R90). -/
def State.engineComplete (s : State) : Host.Outcome State Fault Refusal :=
  match decode s.cmd with
  | none => .next (s.raise .illegal)
  | some i => exec i s

/-- The engine's turn: it has a step exactly when it is running (10_state.md R42). -/
def State.engineTurn (s : State) : Host.Outcome State Fault Refusal :=
  match s.engine with
  | .running => s.engineComplete
  | .idle => .next s

/-- The next event of the total order. With no event left in `inputs` the engine has its turn: its step is always
enabled while it is running, and an idle block waits (10_state.md R42, 70_reset_and_hazards.md R210; log 2). -/
def State.advance (s : State) : Host.Outcome State Fault Refusal :=
  match s.inputs with
  | [] => s.engineTurn
  | .access a :: rest => { s with inputs := rest }.hostAccess a
  | .engineTurn :: rest => { s with inputs := rest }.engineTurn
  | .reset :: rest => .next { s with inputs := rest }.platformReset

end Sys2Proof.Machine
end

