-- ==== Sys2Proof/Machine/Step.lean ====
section
/-!
DEFINITION. The step function, and how the host's checks place one command word.
-/

namespace Sys2Proof.Machine

/-- One step: the next event of the block's total order (20_memory.md R67). -/
def step (s : State) : Host.Outcome State Fault Refusal := s.advance

/-- `s` with the command word `w` accepted and no other event before its completion, so that the next step runs it.
It stands for the host's CMD write (10_state.md R40; log 3). -/
def State.withFetchWord (s : State) (nbits w : Nat) : State :=
  { s with inputs := [] }.accept (BitVec.ofNat 64 (w % 2 ^ nbits))

end Sys2Proof.Machine
end

