-- ==== Sys2Proof/Machine/Assembler.lean ====
section
/-!
DEFINITION. The text form of commands (30_encoding.md R94), as a host-side function from a line of characters to a
command word. `step` does not use it (log 19).
-/

namespace Sys2Proof.Machine

/-- A decimal digit's value. -/
def decDigit (c : Char) : Option Nat := if 48 ≤ c.toNat ∧ c.toNat ≤ 57 then some (c.toNat - 48) else none

/-- A hexadecimal digit's value, for `.word64`. -/
def hexCharDigit (c : Char) : Option Nat :=
  if 48 ≤ c.toNat ∧ c.toNat ≤ 57 then some (c.toNat - 48)
  else if 65 ≤ c.toNat ∧ c.toNat ≤ 70 then some (c.toNat - 65 + 10)
  else if 97 ≤ c.toNat ∧ c.toNat ≤ 102 then some (c.toNat - 97 + 10)
  else none

/-- The number a list of hexadecimal digits spells, going on from `acc`. -/
def hexCharsFrom (acc : Nat) : List Char → Option Nat
  | [] => some acc
  | c :: cs => match hexCharDigit c with
    | some d => hexCharsFrom (acc * 16 + d) cs
    | none => none

/-- A letter in upper case: mnemonics are case-insensitive (30_encoding.md R94). -/
def upperChar (c : Char) : Char := if 97 ≤ c.toNat ∧ c.toNat ≤ 122 then Char.ofNat (c.toNat - 32) else c

/-- A number register `n0` to `n15` (30_encoding.md R94). -/
def regOfText : List Char → Option Reg
  | ['n', a] => match decDigit a with
    | some d => if h : d < 16 then some ⟨d, h⟩ else none
    | none => none
  | ['n', '1', a] => match decDigit a with
    | some d => if h : 10 + d < 16 then some ⟨10 + d, h⟩ else none
    | none => none
  | _ => none

/-- The characters without the spaces. -/
def noSpaces (cs : List Char) : List Char := cs.filter fun c => c != ' '

/-- The pieces between commas; the empty text has none. -/
def splitCommas : List Char → List (List Char)
  | [] => []
  | c :: cs =>
    if c = ',' then [] :: (match splitCommas cs with
      | [] => [[]]
      | p :: ps => p :: ps)
    else match splitCommas cs with
      | [] => [[c]]
      | p :: ps => (c :: p) :: ps

/-- The registers of an operand list, refused as a whole if one is no register. -/
def regsOfText : List (List Char) → Option (List Reg)
  | [] => some []
  | p :: ps => match regOfText p, regsOfText ps with
    | some r, some rs => some (r :: rs)
    | _, _ => none

/-- The command of a mnemonic and its operands; an operand count other than the form's is refused
(30_encoding.md R87, R94). -/
def commandOf (mnemonic : List Char) (regs : List Reg) : Option Instr :=
  if mnemonic = ['A', 'D', 'C'] then match regs with
    | [] => some .adc
    | _ => none
  else if mnemonic = ['M', 'U', 'L', 'A', 'D', 'D'] then match regs with
    | [] => some .muladd
    | _ => none
  else if mnemonic = ['A', 'D', 'D'] then match regs with
    | [d, a, b] => some (.add d a b)
    | _ => none
  else if mnemonic = ['S', 'U', 'B'] then match regs with
    | [d, a, b] => some (.sub d a b)
    | _ => none
  else if mnemonic = ['M', 'U', 'L'] then match regs with
    | [d, a, b] => some (.mul d a b)
    | _ => none
  else if mnemonic = ['P', 'O', 'W'] then match regs with
    | [d, a] => some (.pow d a)
    | _ => none
  else if mnemonic = ['P', 'A', 'R', 'S', 'E'] then match regs with
    | [d] => some (.parse d)
    | _ => none
  else none

/-- `.word64 0x…`, the way to write a word that is no command (30_encoding.md R94). -/
def rawWord (operand : List Char) : Option Word :=
  match operand with
  | '0' :: 'x' :: d :: ds => match hexCharsFrom 0 (d :: ds) with
    | some n => if n < 2 ^ 64 then some (BitVec.ofNat 64 n) else none
    | none => none
  | _ => none

/-- One line: the mnemonic up to the first space, then the operands (30_encoding.md R94). -/
def assemble (line : List Char) : Option Word :=
  let mnemonic := line.takeWhile fun c => c != ' '
  let operands := noSpaces (line.dropWhile fun c => c != ' ')
  if mnemonic = ['.', 'w', 'o', 'r', 'd', '6', '4'] then rawWord operands
  else match regsOfText (splitCommas operands) with
    | none => none
    | some regs => match commandOf (mnemonic.map upperChar) regs with
      | none => none
      | some i => some (encode i)

end Sys2Proof.Machine
end

