-- ==== Sys2Proof/Machine/HostOps.lean ====
section
/-!
DEFINITION. The host operations and pseudo-instructions of the spec's programs (30_encoding.md R95, R96), as the events
they are sequences of. None is a command; `step` does not use them (log 19).
-/

namespace Sys2Proof.Machine

/-- `W <reg>, v` (30_encoding.md R95). -/
def hostW (r : WinReg) (v : Word) : Event := .access ⟨.write v, 8, r.offset⟩

/-- `R <reg>` (30_encoding.md R95). -/
def hostR (r : WinReg) : Event := .access ⟨.read, 8, r.offset⟩

/-- `POLL` that sees BUSY = 1 `n` times before the completion: STATUS reads until BUSY = 0 (30_encoding.md R95). How
many it sees is not fixed (70_reset_and_hazards.md R210). -/
def hostPoll (n : Nat) : List Event := List.replicate n (hostR .status) ++ [.engineTurn, hostR .status]

/-- `ISSUE` of a command (30_encoding.md R96). -/
def hostIssue (n : Nat) (i : Instr) : List Event := hostW .cmd (encode i) :: hostPoll n

/-- `pack(text, k)`, 0 bytes past the end (30_encoding.md R96). -/
def packText (text : List Byte) (k : Nat) : Word :=
  BitVec.ofNat 64 (packBytes ((List.range 8).map fun m => text.getD (8 * k + m) 0))

/-- `LOADHEX nD, "<text>"` (30_encoding.md R96). -/
def hostLoadHex (n : Nat) (rd : Reg) (text : List Byte) : List Event :=
  (List.range ((text.length + 7) / 8)).map (fun k => hostW (.textw k) (packText text k)) ++
    hostW .textLen (BitVec.ofNat 64 text.length) :: hostIssue n (.parse rd)

/-- `READNUM nS` of a number of `len` limbs, the length NINFO shows (30_encoding.md R96). -/
def hostReadNum (rs : Reg) (len : Nat) : List Event :=
  hostW .nsel (BitVec.ofNat 64 rs.val) :: hostR .ninfo :: (List.range len).map fun k => hostR (.limb k)

/-- `SCALAR ADC, a, b, c` (30_encoding.md R96). -/
def hostScalarAdc (n : Nat) (a b c : Word) : List Event :=
  [hostW .sa a, hostW .sb b, hostW .scin c] ++ hostIssue n .adc

/-- `SCALAR MULADD, a, b, c` (30_encoding.md R96). -/
def hostScalarMuladd (n : Nat) (a b c : Word) : List Event :=
  [hostW .sa a, hostW .sb b, hostW .sacc c] ++ hostIssue n .muladd

end Sys2Proof.Machine
end

