-- ==== Sys2Proof/Safety.lean ====
section
/-!
DEFINITION. What the claims mean by an invariant state, by a command's effect and its frame, and by an ended run.
-/

namespace Sys2Proof.Machine

/-- A number register holds at most MAX_LIMBS limbs, and an unwritten one has LEN = 0 (10_state.md R21, R49). -/
def NumReg.Ok (maxLimbs : Nat) (r : NumReg) : Prop := r.len ≤ maxLimbs ∧ (r.valid = false → r.len = 0)

/-- ERRINFO agrees with ERRCODE (60_exceptions.md R182): 0 for NONE, ILLEGAL and CAPACITY, a register index for
UNWRITTEN, an index below MAX_TEXT for PARSE. -/
def State.ErrInfoOk (s : State) : Prop :=
  match s.errCode with
  | .none | .illegal | .capacity => s.errInfo = 0
  | .unwritten => s.errInfo.toNat < 16
  | .parse => s.errInfo.toNat < s.maxText

/-- The invariant of the block: MAX_LIMBS in its range (00_scope.md R9), every number register within capacity
(10_state.md R21), TEXT in canonical form and inside the buffer (10_state.md R28), STATUS consistent
(10_state.md R34, 60_exceptions.md R182). -/
structure State.Inv (s : State) : Prop where
  maxLimbs_ge : 32 ≤ s.maxLimbs
  maxLimbs_le : s.maxLimbs ≤ 4096
  num_ok : ∀ r : Reg, (s.num r).Ok s.maxLimbs
  text_wf : Memory.wf s.text = true
  text_below : Memory.below s.maxText s.text = true
  errInfo_ok : s.ErrInfoOk
  busy_clear : s.engine = .running → s.done = false ∧ s.errCode = .none

/-- The command has ended with this outcome (10_state.md R42). -/
structure State.Ended (t : State) (code : ErrCode) (info : BitVec 32) : Prop where
  engine : t.engine = .idle
  done : t.done = true
  errCode : t.errCode = code
  errInfo : t.errInfo = info

/-- What no command writes is the same in `t` as in `s`: the operand and control registers, OVERRUN, every byte of TEXT
(10_state.md R42, R44, R47). -/
structure State.KeepsControl (s t : State) : Prop where
  maxLimbs : t.maxLimbs = s.maxLimbs
  overrun : t.overrun = s.overrun
  cmd : t.cmd = s.cmd
  sa : t.sa = s.sa
  sb : t.sb = s.sb
  scin : t.scin = s.scin
  sacc : t.sacc = s.sacc
  exp : t.exp = s.exp
  textLen : t.textLen = s.textLen
  nsel : t.nsel = s.nsel
  text : ∀ k, Memory.read t.text k = Memory.read s.text k
  inputs : t.inputs = s.inputs
  responses : t.responses = s.responses

/-- Every number register is the same in `t` as in `s`, but those listed. -/
def State.KeepsNumbers (s t : State) (but : List Reg) : Prop := ∀ r, r ∉ but → t.num r = s.num r

/-- SLO and SHI are the same in `t` as in `s`. -/
def State.KeepsScalars (s t : State) : Prop := t.slo = s.slo ∧ t.shi = s.shi

/-- `t` is `s` after a command that raised an error: nothing is written but STATUS (60_exceptions.md R180). -/
structure State.Raised (s t : State) (code : ErrCode) (info : BitVec 32) : Prop where
  ended : t.Ended code info
  control : s.KeepsControl t
  numbers : s.KeepsNumbers t []
  scalars : s.KeepsScalars t

/-- `t` is `s` after a command that wrote `n` to `x[rd]` and nothing else but STATUS (10_state.md R42). -/
structure State.WroteNumber (s t : State) (rd : Reg) (n : List Limb) : Prop where
  ended : t.Ended .none 0
  result : t.num rd = ⟨true, n⟩
  control : s.KeepsControl t
  numbers : s.KeepsNumbers t [rd]
  scalars : s.KeepsScalars t

/-- `t` is `s` after a command that wrote SLO and SHI and nothing else but STATUS (10_state.md R42). -/
structure State.WroteScalars (s t : State) (lo hi : Word) : Prop where
  ended : t.Ended .none 0
  slo : t.slo = lo
  shi : t.shi = hi
  control : s.KeepsControl t
  numbers : s.KeepsNumbers t []

/-- The state after a read access answered with `v`: nothing but the model's own fields differs (20_memory.md R65). -/
def State.afterRead (s : State) (rest : List Event) (v : Word) : State :=
  { s with inputs := rest, responses := .data v :: s.responses, draws := s.draws + 1 }

/-- The state after a write access, before its effect on the block. -/
def State.afterWrite (s : State) (rest : List Event) : State :=
  { s with inputs := rest, responses := .written :: s.responses }

/-- Two states show the same outcome of a command: number registers, SLO, SHI and the error (60_exceptions.md R199). -/
structure State.SameOutcome (t u : State) : Prop where
  numbers : ∀ r, t.num r = u.num r
  slo : t.slo = u.slo
  shi : t.shi = u.shi
  errCode : t.errCode = u.errCode
  errInfo : t.errInfo = u.errInfo

/-- No access error has been recorded; such a fault is never cleared (60_exceptions.md R190; log 9). -/
def State.noAccessFault (s : State) : Bool :=
  s.responses.all fun r => match r with
    | .data _ => true
    | .written => true
    | .accessFault _ => false

/-- The run has ended: the host has performed its last operation and BUSY = 0 (70_reset_and_hazards.md R212); a run with
an access error in it is never final (60_exceptions.md R190). -/
def State.runEnded (s : State) : Bool := s.inputs.isEmpty && !s.busy && s.noAccessFault

end Sys2Proof.Machine
end

