-- ==== Sys2Proof/Certificates/Slice0/Obligations.lean ====
section
/-!
DEFINITION. The statements for the provers. Each docstring names the rules it formalises.
-/

open Sys2Proof Sys2Proof.Machine

/-! ### Encoding and decoding -/

/-- 30_encoding.md R89: the example words, and that they decode to their commands. -/
def Obligations.ExampleWordsEncodeAndDecode : Prop :=
  ∀ p ∈ [(Instr.add 3 0 1, 0x0000000000010310#64), (.sub 2 0 1, 0x0000000000010211#64),
      (.mul 2 0 1, 0x0000000000010212#64), (.pow 1 0, 0x0000000000000113#64), (.parse 2, 0x0000000000000220#64),
      (.adc, 0x0000000000000001#64), (.muladd, 0x0000000000000002#64)],
    encode p.1 = p.2 ∧ decode p.2 = some p.1

/-- 30_encoding.md R85, R89, R91: decoding the encoding of any command gives it back, with every operand at every
value. -/
def Obligations.DecodeOfEncodeIsIdentity : Prop := ∀ i : Instr, decode (encode i) = some i

/-- 30_encoding.md R85, R91: a word that decodes is the encoding of what it decodes to, so no bit of it is ignored. -/
def Obligations.EncodeOfDecodeIsIdentity : Prop := ∀ (w : Word) (i : Instr), decode w = some i → encode i = w

/-- 30_encoding.md R89: the value of an encoding. -/
def Obligations.EncodingHasTheFieldSum : Prop :=
  ∀ i : Instr, (encode i).toNat = match i with
    | .adc => 0x01
    | .muladd => 0x02
    | .add rd ra rb => 0x10 + 256 * rd.val + 4096 * ra.val + 65536 * rb.val
    | .sub rd ra rb => 0x11 + 256 * rd.val + 4096 * ra.val + 65536 * rb.val
    | .mul rd ra rb => 0x12 + 256 * rd.val + 4096 * ra.val + 65536 * rb.val
    | .pow rd ra => 0x13 + 256 * rd.val + 4096 * ra.val
    | .parse rd => 0x20 + 256 * rd.val

/-- 30_encoding.md R88: a word decodes to a command of a row exactly when (w & mask) = match for that row. `i` stands for
its row: the mask and the match depend on the constructor only. -/
def Obligations.DecodeAgreesWithMatchAndMask : Prop :=
  (∀ (w : Word) (i : Instr), decode w = some i → w &&& rowMask i = rowMatch i) ∧
  (∀ (w : Word) (j : Instr), w &&& rowMask j = rowMatch j →
    ∃ i, decode w = some i ∧ rowMatch i = rowMatch j ∧ rowMask i = rowMask j)

/-- 30_encoding.md R90: a word is illegal exactly when its opcode is undefined, or RSV is not 0, or a must-be-zero
field of its form is not 0. -/
def Obligations.IllegalExactlyWhenIllFormed : Prop :=
  ∀ w : Word, decode w = none ↔
    (fieldsOf w).op ∉ [0x01#8, 0x02#8, 0x10#8, 0x11#8, 0x12#8, 0x13#8, 0x20#8] ∨
    (fieldsOf w).rsv ≠ 0 ∨
    ∃ form, formOf (fieldsOf w).op = some form ∧ form.unusedZero (fieldsOf w) = false

/-- 30_encoding.md R94: an assembler cannot spell an illegal word but as a raw `.word64` value. -/
def Obligations.AssembledCommandsAreLegal : Prop :=
  ∀ (line : List Char) (w : Word), (line.takeWhile fun c => c != ' ') ≠ ['.', 'w', 'o', 'r', 'd', '6', '4'] →
    assemble line = some w → ∃ i, decode w = some i

/-! ### The step and the life of a command -/

/-- 10_state.md R42: at the engine's turn the step runs the decoded command; the step adds nothing around exec but
taking the engine's turn off the inputs. That a running engine has its turn when no event is left is the model's choice
(log 2), and the clause for no inputs rests on it. -/
def Obligations.StepRunsTheDecodedCommand : Prop :=
  (∀ (s : State) (i : Instr), s.engine = .running → s.inputs = [] → decode s.cmd = some i → step s = exec i s) ∧
  (∀ (s : State) (i : Instr) (rest : List Event), s.engine = .running → s.inputs = .engineTurn :: rest →
    decode s.cmd = some i → step s = exec i { s with inputs := rest })

/-- 30_encoding.md R90, 60_exceptions.md R183: an illegal word completes with ILLEGAL, ERRINFO = 0 and no write, at the
engine's turn. That a running engine has its turn when no event is left is the model's choice (log 2), and the clause
for no inputs rests on it. -/
def Obligations.IllegalWordCompletesWithIllegal : Prop :=
  ∀ s : State, s.engine = .running → decode s.cmd = none →
    (s.inputs = [] → ∃ t, step s = .next t ∧ s.Raised t .illegal 0) ∧
    (∀ rest, s.inputs = .engineTurn :: rest →
      ∃ t, step s = .next t ∧ State.Raised { s with inputs := rest } t .illegal 0)

/-- 10_state.md R42, 60_exceptions.md R175: every command completes in every state: BUSY 0, DONE 1, and the operand and
control registers, OVERRUN and TEXT as they were. -/
def Obligations.EveryCommandCompletes : Prop :=
  ∀ (i : Instr) (s : State), ∃ t, exec i s = .next t ∧ t.engine = .idle ∧ t.done = true ∧ s.KeepsControl t

/-- 60_exceptions.md R188, R180: a command that reports an error has written nothing but STATUS. -/
def Obligations.ErrorsWriteNothing : Prop :=
  ∀ (i : Instr) (s t : State), exec i s = .next t → t.errCode ≠ .none → s.Raised t t.errCode t.errInfo

/-- 10_state.md R40: a CMD write while BUSY = 0 is accepted, whatever the word. -/
def Obligations.CmdWriteIsAccepted : Prop :=
  ∀ (s : State) (v : Word) (rest : List Event), s.engine = .idle →
    s.inputs = .access ⟨.write v, 8, 0x0010⟩ :: rest →
    step s = .next { s.afterWrite rest with
      cmd := v, engine := .running, done := false, errCode := .none, errInfo := 0 }

/-- 70_reset_and_hazards.md R210: a poll loop ends. Whatever accesses of the window the host makes before the engine's
turn comes, the command is complete right after that turn, and the accesses before it saw BUSY = 1. -/
def Obligations.PollLoopEndsAtTheEnginesTurn : Prop :=
  ∀ (s : State) (before : List Access) (rest : List Event), s.engine = .running →
    s.inputs = before.map .access ++ .engineTurn :: rest → (∀ a ∈ before, a.off < Config.windowSize) →
    (∃ u, core.run before.length s = .next u ∧ u.busy = true ∧ u.cmd = s.cmd ∧ u.inputs = .engineTurn :: rest) ∧
    (∃ t, core.run (before.length + 1) s = .next t ∧ t.busy = false ∧ t.done = true ∧ t.inputs = rest)

/-- 60_exceptions.md R199: what the host does while a command runs does not change its outcome: it is that of the
engine's turn coming at once. For a PARSE that reads its text the bytes of the text have all been written, since an
unwritten byte is a fresh draw each time (log 6); nothing is asked for any other command or illegal word. -/
def Obligations.HostCannotDisturbARunningCommand : Prop :=
  ∀ (s : State) (before : List Access) (rest : List Event), s.engine = .running →
    s.inputs = before.map .access ++ .engineTurn :: rest → (∀ a ∈ before, a.off < Config.windowSize) →
    (∀ rd, decode s.cmd = some (.parse rd) → s.textLen.toNat ≤ s.maxText →
      ∀ k, k < s.textLen.toNat → (Memory.read s.text k).isSome) →
    ∃ t u, core.run (before.length + 1) s = .next t ∧ step { s with inputs := .engineTurn :: rest } = .next u ∧
      t.SameOutcome u

/-- 10_state.md R29: NSEL has no effect on any command. -/
def Obligations.SelectorDoesNotAffectCommands : Prop :=
  ∀ (i : Instr) (s : State) (n : Reg), ∃ t, exec i s = .next t ∧ exec i { s with nsel := n } = .next { t with nsel := n }

/-- 10_state.md R27: RD may be RA or RB; the result is the same as with any other destination. -/
def Obligations.DestinationMayAliasSources : Prop :=
  ∀ (s : State) (ra rb rd rd' : Reg),
    (∃ t u, exec (.add rd ra rb) s = .next t ∧ exec (.add rd' ra rb) s = .next u ∧
      t.errCode = u.errCode ∧ t.errInfo = u.errInfo ∧ (t.errCode = .none → t.num rd = u.num rd')) ∧
    (∃ t u, exec (.sub rd ra rb) s = .next t ∧ exec (.sub rd' ra rb) s = .next u ∧
      t.errCode = u.errCode ∧ t.errInfo = u.errInfo ∧ (t.errCode = .none → t.num rd = u.num rd')) ∧
    (∃ t u, exec (.mul rd ra rb) s = .next t ∧ exec (.mul rd' ra rb) s = .next u ∧
      t.errCode = u.errCode ∧ t.errInfo = u.errInfo ∧ (t.errCode = .none → t.num rd = u.num rd')) ∧
    (∃ t u, exec (.pow rd ra) s = .next t ∧ exec (.pow rd' ra) s = .next u ∧
      t.errCode = u.errCode ∧ t.errInfo = u.errInfo ∧ (t.errCode = .none → t.num rd = u.num rd'))

/-! ### Invariants of the machine -/

/-- 10_state.md R49: the reset state meets the invariant. -/
def Obligations.ResetMeetsTheInvariant : Prop := State.reset.Inv

/-- 10_state.md R21, R28, R34, 60_exceptions.md R182: every step keeps the invariant: capacity of the number registers,
canonical TEXT inside its buffer, a consistent STATUS. -/
def Obligations.EveryStepKeepsTheInvariant : Prop :=
  ∀ s t : State, s.Inv → step s = .next t → t.Inv

/-- 10_state.md R23, 70_reset_and_hazards.md R202: only reset sets VALID back to 0. -/
def Obligations.OnlyResetClearsValid : Prop :=
  ∀ (s t : State) (r : Reg), step s = .next t → (∀ rest, s.inputs ≠ .reset :: rest) →
    (s.num r).valid = true → (t.num r).valid = true

/-- 10_state.md R21: only ADD, SUB, MUL, POW and PARSE write a number register, only the one their RD field names, and
only the engine's completion of such a command or a reset changes one. -/
def Obligations.OnlyTheNamedDestinationChanges : Prop :=
  ∀ (s t : State) (r : Reg), step s = .next t → t.num r ≠ s.num r →
    (∃ rest, s.inputs = .reset :: rest) ∨
    (s.engine = .running ∧ (s.inputs = [] ∨ ∃ rest, s.inputs = .engineTurn :: rest) ∧
      ((∃ ra rb, decode s.cmd = some (.add r ra rb)) ∨ (∃ ra rb, decode s.cmd = some (.sub r ra rb)) ∨
        (∃ ra rb, decode s.cmd = some (.mul r ra rb)) ∨ (∃ ra, decode s.cmd = some (.pow r ra)) ∨
        decode s.cmd = some (.parse r)))

/-- 60_exceptions.md R191, 10_state.md R35: once set, OVERRUN stays set until a STATUS write with bit 2 set, or reset. -/
def Obligations.OverrunStaysUntilCleared : Prop :=
  ∀ s t : State, step s = .next t → s.overrun = true → t.overrun = false →
    (∃ rest, s.inputs = .reset :: rest) ∨
    (∃ v rest, s.inputs = .access ⟨.write v, 8, 0x0018⟩ :: rest ∧ v.getLsbD 2 = true)

/-- 60_exceptions.md R190: a recorded access error is never cleared by a later step (the record is the model's, log 9). -/
def Obligations.AccessFaultsAreNeverCleared : Prop :=
  ∀ s t : State, step s = .next t → s.noAccessFault = false → t.noAccessFault = false

/-! ### ADC and MULADD -/

/-- 40_limb_primitives.md R104, R106: the sum, the carry, and that the bitwise identity gives the same carry. -/
def Obligations.AdcKeepsTheOverflowBit : Prop :=
  ∀ (a b : Limb) (cin : BitVec 1),
    (adc a b cin).1.toNat = (a.toNat + b.toNat + cin.toNat) % 2 ^ 64 ∧
    (adc a b cin).2.toNat = (if a.toNat + b.toNat + cin.toNat > 2 ^ 64 - 1 then 1 else 0) ∧
    (adc a b cin).1.toNat + 2 ^ 64 * (adc a b cin).2.toNat = a.toNat + b.toNat + cin.toNat ∧
    carryIdentity a b (adc a b cin).1 = (adc a b cin).2

/-- 40_limb_primitives.md R107, R109: no bit is lost, and high is 2^64 − 1 in one case only, where low is 0. -/
def Obligations.MuladdLosesNoBit : Prop :=
  ∀ a b acc : Limb,
    a.toNat * b.toNat + acc.toNat ≤ 2 ^ 128 - 2 ^ 64 ∧
    (muladd a b acc).1.toNat = (a.toNat * b.toNat + acc.toNat) % 2 ^ 64 ∧
    (muladd a b acc).2.toNat = (a.toNat * b.toNat + acc.toNat) / 2 ^ 64 ∧
    (muladd a b acc).2.toNat * 2 ^ 64 + (muladd a b acc).1.toNat = a.toNat * b.toNat + acc.toNat ∧
    ((muladd a b acc).2.toNat = 2 ^ 64 - 1 ↔
      a.toNat = 2 ^ 64 - 1 ∧ b.toNat = 2 ^ 64 - 1 ∧ acc.toNat = 2 ^ 64 - 1) ∧
    ((muladd a b acc).2.toNat = 2 ^ 64 - 1 → (muladd a b acc).1 = 0) ∧
    ((muladd a b acc).2.toNat ≠ 2 ^ 64 - 1 → (muladd a b acc).2.toNat ≤ 2 ^ 64 - 2)

/-- 40_limb_primitives.md R105: ADC in every state: SLO is the sum, SHI the carry, 0 or 1, nothing else but STATUS
changes. -/
def Obligations.AdcWritesSumAndCarry : Prop :=
  ∀ s : State, ∃ t, exec .adc s = .next t ∧ s.WroteScalars t t.slo t.shi ∧
    t.slo.toNat = (s.sa.toNat + s.sb.toNat + s.scin.toNat) % 2 ^ 64 ∧
    t.shi.toNat = (s.sa.toNat + s.sb.toNat + s.scin.toNat) / 2 ^ 64

/-- 40_limb_primitives.md R108: MULADD in every state: SLO and SHI are the halves of SA·SB + SACC, nothing else but
STATUS changes. -/
def Obligations.MuladdWritesLowAndHigh : Prop :=
  ∀ s : State, ∃ t, exec .muladd s = .next t ∧ s.WroteScalars t t.slo t.shi ∧
    t.shi.toNat * 2 ^ 64 + t.slo.toNat = s.sa.toNat * s.sb.toNat + s.sacc.toNat

/-! ### ADD and SUB -/

/-- 42_add_sub.md R136: the value of the sum is exact. -/
def Obligations.AddIsExact : Prop := ∀ a b : List Limb, val (add a b) = val a + val b

/-- 42_add_sub.md R137: the length of the sum, and the appended limb is 1; add never trims. -/
def Obligations.AddLengthIsExact : Prop :=
  ∀ a b : List Limb,
    (val a + val b < 2 ^ (64 * max a.length b.length) → (add a b).length = max a.length b.length) ∧
    (¬ val a + val b < 2 ^ (64 * max a.length b.length) →
      (add a b).length = max a.length b.length + 1 ∧ (add a b).getLast? = some 1) ∧
    add [0x5, 0x0] [0x1] = [0x6, 0x0]

/-- 42_add_sub.md R138. -/
def Obligations.AddCommutesAndAssociates : Prop :=
  (∀ a b : List Limb, add a b = add b a) ∧
  (∀ a b c : List Limb, val (add (add a b) c) = val (add a (add b c)))

/-- 42_add_sub.md R135: ADD with valid sources: the sum when it fits, CAPACITY otherwise. -/
def Obligations.AddWritesTheSumOrReportsCapacity : Prop :=
  ∀ (s : State) (rd ra rb : Reg), (s.num ra).valid = true → (s.num rb).valid = true →
    ((add (s.num ra).limbs (s.num rb).limbs).length ≤ s.maxLimbs →
      ∃ t, exec (.add rd ra rb) s = .next t ∧ s.WroteNumber t rd (add (s.num ra).limbs (s.num rb).limbs)) ∧
    (s.maxLimbs < (add (s.num ra).limbs (s.num rb).limbs).length →
      ∃ t, exec (.add rd ra rb) s = .next t ∧ s.Raised t .capacity 0)

/-- 42_add_sub.md R144, R145: the length, the difference modulo 2^(64·n), the wraparound value, and what the discarded
carry says. -/
def Obligations.SubWrapsAround : Prop :=
  ∀ a b : List Limb,
    (sub a b).length = max a.length b.length ∧
    (val (sub a b) : Int) = ((val a : Int) - (val b : Int)) % (2 ^ (64 * max a.length b.length) : Int) ∧
    (val a < val b → val (sub a b) = 2 ^ (64 * max a.length b.length) - (val b - val a)) ∧
    ((adcChain (padded (max a.length b.length) a)
      ((padded (max a.length b.length) b).map fun l => ~~~ l) 1#1).2 = 1#1 ↔ val b ≤ val a) ∧
    (max a.length b.length = 0 → sub a b = [])

/-- 42_add_sub.md R146. -/
def Obligations.SubOfEqualsIsZeroLimbs : Prop :=
  ∀ a : List Limb, sub a a = List.replicate a.length 0 ∧ formatHex (sub a a) = []

/-- 42_add_sub.md R142: SUB with valid sources always writes the difference. -/
def Obligations.SubWritesTheDifference : Prop :=
  ∀ (s : State) (rd ra rb : Reg), (s.num ra).valid = true → (s.num rb).valid = true →
    ∃ t, exec (.sub rd ra rb) s = .next t ∧ s.WroteNumber t rd (sub (s.num ra).limbs (s.num rb).limbs)

/-! ### MUL -/

/-- 43_mul.md R152: length and value of the product, which determine it. -/
def Obligations.MulIsTheExactProduct : Prop :=
  ∀ a b : List Limb,
    (mul a b).length = a.length + b.length ∧ val (mul a b) = val a * val b ∧
    (∀ c : List Limb, c.length = a.length + b.length → val c = val a * val b → c = mul a b)

/-- 43_mul.md R156. -/
def Obligations.MulCommutesAndAssociates : Prop :=
  (∀ a b : List Limb, mul a b = mul b a) ∧
  (∀ a b c : List Limb, mul (mul a b) c = mul a (mul b c) ∧
    (mul (mul a b) c).length = a.length + b.length + c.length) ∧
  (∀ a one : List Limb, parse [0x31#8] = .ok one →
    val (mul a one) = val a ∧ (mul a one).length = a.length + 1)

/-- 43_mul.md R150, R155: MUL with valid sources: CAPACITY exactly when the lengths do not fit. -/
def Obligations.MulWritesTheProductOrReportsCapacity : Prop :=
  ∀ (s : State) (rd ra rb : Reg), (s.num ra).valid = true → (s.num rb).valid = true →
    ((s.num ra).len + (s.num rb).len ≤ s.maxLimbs →
      ∃ t, exec (.mul rd ra rb) s = .next t ∧ s.WroteNumber t rd (mul (s.num ra).limbs (s.num rb).limbs)) ∧
    (s.maxLimbs < (s.num ra).len + (s.num rb).len →
      ∃ t, exec (.mul rd ra rb) s = .next t ∧ s.Raised t .capacity 0)

/-! ### POW -/

/-- 44_pow.md R168, R166 (the length): pow(B, 0) is [0x1], the same sequence parse("1") gives; pow(B, 1) is
mul([0x1], B), equal to B by value; pow(B, n) is mul(pow(B, n−1), B), of length 1 + len(B)·n and value val(B)^n. -/
def Obligations.PowMeetsItsRecurrence : Prop :=
  ∀ base : List Limb,
    pow base 0 = [0x1] ∧ parse [0x31#8] = .ok (pow base 0) ∧
    pow base 1 = mul [0x1] base ∧ val (pow base 1) = val base ∧ (pow base 1).length = base.length + 1 ∧
    (∀ n : Word, n ≠ 0 → pow base n = mul (pow base (n - 1)) base ∧
      (pow base n).length = 1 + base.length * n.toNat ∧ val (pow base n) = val base ^ n.toNat)

/-- 44_pow.md R163, R167: POW with a valid source: CAPACITY exactly when 1 + L·EXP, an exact integer, does not fit. -/
def Obligations.PowWritesThePowerOrReportsCapacity : Prop :=
  ∀ (s : State) (rd ra : Reg), (s.num ra).valid = true →
    (1 + (s.num ra).len * s.exp.toNat ≤ s.maxLimbs →
      ∃ t, exec (.pow rd ra) s = .next t ∧ s.WroteNumber t rd (pow (s.num ra).limbs s.exp)) ∧
    (s.maxLimbs < 1 + (s.num ra).len * s.exp.toNat →
      ∃ t, exec (.pow rd ra) s = .next t ∧ s.Raised t .capacity 0)

/-! ### Unwritten sources -/

/-- 60_exceptions.md R184, R187: UNWRITTEN, RA before RB and before CAPACITY; PARSE, ADC and MULADD never report it and
read no number register: with any other number registers they write the same. -/
def Obligations.UnwrittenSourcesAreReported : Prop :=
  (∀ (s : State) (rd ra rb : Reg), (s.num ra).valid = false →
    (∃ t, exec (.add rd ra rb) s = .next t ∧ s.Raised t .unwritten (BitVec.ofNat 32 ra.val)) ∧
    (∃ t, exec (.sub rd ra rb) s = .next t ∧ s.Raised t .unwritten (BitVec.ofNat 32 ra.val)) ∧
    (∃ t, exec (.mul rd ra rb) s = .next t ∧ s.Raised t .unwritten (BitVec.ofNat 32 ra.val)) ∧
    (∃ t, exec (.pow rd ra) s = .next t ∧ s.Raised t .unwritten (BitVec.ofNat 32 ra.val))) ∧
  (∀ (s : State) (rd ra rb : Reg), (s.num ra).valid = true → (s.num rb).valid = false →
    (∃ t, exec (.add rd ra rb) s = .next t ∧ s.Raised t .unwritten (BitVec.ofNat 32 rb.val)) ∧
    (∃ t, exec (.sub rd ra rb) s = .next t ∧ s.Raised t .unwritten (BitVec.ofNat 32 rb.val)) ∧
    (∃ t, exec (.mul rd ra rb) s = .next t ∧ s.Raised t .unwritten (BitVec.ofNat 32 rb.val))) ∧
  (∀ (s t : State) (rd : Reg), exec (.parse rd) s = .next t → t.errCode ≠ .unwritten) ∧
  (∀ s t : State, exec .adc s = .next t → t.errCode ≠ .unwritten) ∧
  (∀ s t : State, exec .muladd s = .next t → t.errCode ≠ .unwritten) ∧
  (∀ (s : State) (x : Vector NumReg 16) (rd : Reg), ∃ t u,
    exec (.parse rd) s = .next t ∧ exec (.parse rd) { s with x := x } = .next u ∧ u = { t with x := u.x } ∧
      (t.errCode = .none → u.num rd = t.num rd)) ∧
  (∀ (s : State) (x : Vector NumReg 16),
    (∃ t, exec .adc s = .next t ∧ exec .adc { s with x := x } = .next { t with x := x }) ∧
    (∃ t, exec .muladd s = .next t ∧ exec .muladd { s with x := x } = .next { t with x := x }))

/-! ### PARSE and FormatHex -/

/-- 41_parse.md R116, R117, R118, R120: which bytes are hex digits and their values (the byte codes are ASCII, log 18);
a text of hex digits gives ceil(t/16) limbs, leading zeros kept, whose value is the number the text spells; any other
text raises PARSE with the least index of a byte that is no hex digit. -/
def Obligations.ParseSpellsTheNumber : Prop :=
  (∀ c : Byte,
    (0x30 ≤ c.toNat → c.toNat ≤ 0x39 → hexval c = some (c.toNat - 0x30)) ∧
    (0x41 ≤ c.toNat → c.toNat ≤ 0x46 → hexval c = some (c.toNat - 0x41 + 10)) ∧
    (0x61 ≤ c.toNat → c.toNat ≤ 0x66 → hexval c = some (c.toNat - 0x61 + 10)) ∧
    (c.toNat < 0x30 ∨ (0x39 < c.toNat ∧ c.toNat < 0x41) ∨ (0x46 < c.toNat ∧ c.toNat < 0x61) ∨ 0x66 < c.toNat →
      hexval c = none)) ∧
  (∀ t : List Byte, (∀ c ∈ t, (hexval c).isSome) →
    ∃ n, parse t = .ok n ∧ n.length = (t.length + 15) / 16 ∧ val n = digitsFrom 0 t) ∧
  (∀ (good : List Byte) (c : Byte) (rest : List Byte), (∀ d ∈ good, (hexval d).isSome) → hexval c = none →
    parse (good ++ c :: rest) = .error (.parse good.length))

/-- 41_parse.md R115: PARSE of a written text of hex digits that fits. Every byte of the text has been written, so no
free value takes part (log 6). -/
def Obligations.ParseWritesTheNumber : Prop :=
  ∀ (s : State) (rd : Reg) (t : List Byte), t.length = s.textLen.toNat → t.length ≤ s.maxText →
    (∀ k, ∀ h : k < t.length, Memory.read s.text k = some t[k]) → (∀ c ∈ t, (hexval c).isSome) →
    ∃ u n, exec (.parse rd) s = .next u ∧ s.WroteNumber u rd n ∧
      n.length = (t.length + 15) / 16 ∧ val n = digitsFrom 0 t

/-- 41_parse.md R115, R122: PARSE of a written text that fits and has a byte that is no hex digit: error PARSE, ERRINFO
the least such index, nothing written. -/
def Obligations.ParseRaisesParseError : Prop :=
  ∀ (s : State) (rd : Reg) (t : List Byte) (i : Nat) (h : i < t.length),
    t.length = s.textLen.toNat → t.length ≤ s.maxText →
    (∀ k, ∀ hk : k < t.length, Memory.read s.text k = some t[k]) →
    hexval t[i] = none → (∀ j, ∀ hj : j < i, (hexval (t[j]'(Nat.lt_trans hj h))).isSome) →
    ∃ u, exec (.parse rd) s = .next u ∧ s.Raised u .parse (BitVec.ofNat 32 i)

/-- 41_parse.md R115, 70_reset_and_hazards.md R204: PARSE of a text that fits, whatever has been written: it runs on
some text of that length in which every written byte stands as written, and writes the number that text spells or
reports its first byte that is no hex digit. A byte nothing has written is free (log 6). -/
def Obligations.ParseRunsWhateverIsWritten : Prop :=
  ∀ (s : State) (rd : Reg), s.textLen.toNat ≤ s.maxText →
    ∃ (txt : List Byte) (u : State), txt.length = s.textLen.toNat ∧
      (∀ k b, k < txt.length → Memory.read s.text k = some b → txt[k]? = some b) ∧
      exec (.parse rd) s = .next u ∧
      ((∃ n, s.WroteNumber u rd n ∧ n.length = (txt.length + 15) / 16 ∧ val n = digitsFrom 0 txt ∧
          ∀ c ∈ txt, (hexval c).isSome) ∨
        (∃ i c, s.Raised u .parse (BitVec.ofNat 32 i) ∧ txt[i]? = some c ∧ hexval c = none ∧
          ∀ j d, j < i → txt[j]? = some d → (hexval d).isSome))

/-- 41_parse.md R121: CAPACITY exactly when TEXT_LEN > MAX_TEXT, before any byte; otherwise the number fits. -/
def Obligations.ParseChecksCapacityFirst : Prop :=
  (∀ (s : State) (rd : Reg), s.textLen.toNat > s.maxText →
    ∃ t, exec (.parse rd) s = .next t ∧ s.Raised t .capacity 0) ∧
  (∀ (s t : State) (rd : Reg), s.textLen.toNat ≤ s.maxText → exec (.parse rd) s = .next t →
    t.errCode ≠ .capacity ∧ (t.errCode = .none → (t.num rd).len ≤ s.maxLimbs))

/-- 41_parse.md R129: a number of value zero formats to the empty text, and only such a number. -/
def Obligations.ZeroFormatsToTheEmptyText : Prop :=
  ∀ n : List Limb, formatHex n = [] ↔ val n = 0

/-- 41_parse.md R130: the round trip of a non-empty upper-case text with no leading '0', and that FormatHex depends on
the value only. The byte codes written out here are ASCII (log 18). -/
def Obligations.FormatOfParseIsIdentity : Prop :=
  (∀ h : List Byte, h ≠ [] → h.head? ≠ some 0x30#8 →
    (∀ c ∈ h, (0x30 ≤ c.toNat ∧ c.toNat ≤ 0x39) ∨ (0x41 ≤ c.toNat ∧ c.toNat ≤ 0x46)) →
    ∃ n, parse h = .ok n ∧ formatHex n = h) ∧
  (∀ a b : List Limb, val a = val b → formatHex a = formatHex b)

/-! ### The host's accesses -/

/-- 10_state.md R41, 70_reset_and_hazards.md R206: while BUSY = 1 a write to CMD, SA, SB, SCIN, SACC, EXP, TEXT_LEN or
any TEXTW[k] is dropped and sets OVERRUN. That this takes in TEXTW[k] beyond MAX_TEXT, which R44 speaks of too, is the
model's reading (log 11). -/
def Obligations.BusyWritesAreDropped : Prop :=
  ∀ (s : State) (v : Word) (off : Nat) (rest : List Event), s.engine = .running →
    s.inputs = .access ⟨.write v, 8, off⟩ :: rest →
    (off ∈ [0x0010, 0x0020, 0x0028, 0x0030, 0x0038, 0x0050, 0x0058] ∨ ∃ k, k < 8192 ∧ off = 0x10000 + 8 * k) →
    step s = .next { s.afterWrite rest with overrun := true }

/-- 10_state.md R25, R26, R36, R37: while BUSY = 0 an operand register takes the value written, SCIN its bit 0 and
TEXT_LEN its low 32 bits. -/
def Obligations.IdleOperandWritesAreStored : Prop :=
  ∀ (s : State) (v : Word) (rest : List Event), s.engine = .idle →
    (s.inputs = .access ⟨.write v, 8, 0x0020⟩ :: rest → step s = .next { s.afterWrite rest with sa := v }) ∧
    (s.inputs = .access ⟨.write v, 8, 0x0028⟩ :: rest → step s = .next { s.afterWrite rest with sb := v }) ∧
    (s.inputs = .access ⟨.write v, 8, 0x0030⟩ :: rest →
      step s = .next { s.afterWrite rest with scin := BitVec.ofBool (v.getLsbD 0) }) ∧
    (s.inputs = .access ⟨.write v, 8, 0x0038⟩ :: rest → step s = .next { s.afterWrite rest with sacc := v }) ∧
    (s.inputs = .access ⟨.write v, 8, 0x0050⟩ :: rest → step s = .next { s.afterWrite rest with exp := v }) ∧
    (s.inputs = .access ⟨.write v, 8, 0x0058⟩ :: rest →
      step s = .next { s.afterWrite rest with textLen := v.extractLsb' 0 32 })

/-- 10_state.md R35, R38: a STATUS write clears OVERRUN when its bit 2 is set and does nothing else; an NSEL write stores
bits [3:0] and does nothing else, so it never sets OVERRUN; both are honoured busy or not. -/
def Obligations.StatusAndSelectorWritesAreHonoured : Prop :=
  ∀ (s : State) (v : Word) (rest : List Event),
    (s.inputs = .access ⟨.write v, 8, 0x0018⟩ :: rest →
      step s = .next { s.afterWrite rest with overrun := if v.getLsbD 2 then false else s.overrun }) ∧
    (s.inputs = .access ⟨.write v, 8, 0x0060⟩ :: rest →
      ∃ n : Reg, n.val = v.toNat % 16 ∧ step s = .next { s.afterWrite rest with nsel := n })

/-- 10_state.md R45, R46: a write to a read-only register or a reserved offset changes nothing, and a reserved offset
reads 0, busy or not; the ignored bits of a STATUS, SCIN, TEXT_LEN or NSEL write make no difference. -/
def Obligations.ReadOnlyAndReservedOffsetsAreInert : Prop :=
  (∀ (s : State) (off : Nat) (rest : List Event),
    (∀ v : Word, s.inputs = .access ⟨.write v, 8, off⟩ :: rest →
      (off ∈ [0x0000, 0x0008, 0x0040, 0x0048, 0x0068] ∨ (∃ k, k < 4096 ∧ off = 0x8000 + 8 * k) ∨
        (0x0070 ≤ off ∧ off ≤ 0x7FF8 ∧ off % 8 = 0)) →
      step s = .next (s.afterWrite rest)) ∧
    (0x0070 ≤ off → off ≤ 0x7FF8 → off % 8 = 0 → s.inputs = .access ⟨.read, 8, off⟩ :: rest →
      step s = .next (s.afterRead rest 0))) ∧
  (∀ (s : State) (v w : Word) (off : Nat) (rest : List Event),
    (off = 0x0018 ∧ v.getLsbD 2 = w.getLsbD 2) ∨ (off = 0x0030 ∧ v.getLsbD 0 = w.getLsbD 0) ∨
      (off = 0x0058 ∧ v.toNat % 2 ^ 32 = w.toNat % 2 ^ 32) ∨ (off = 0x0060 ∧ v.toNat % 16 = w.toNat % 16) →
    step { s with inputs := .access ⟨.write v, 8, off⟩ :: rest } =
      step { s with inputs := .access ⟨.write w, 8, off⟩ :: rest })

/-- 10_state.md R31, R32, R33, R34, R36, 70_reset_and_hazards.md R208: ID and PARAM, CMD, STATUS and the operand
registers read their current values, busy or not; STATUS shows BUSY, DONE, OVERRUN, ERRCODE, ERRINFO and zeros in their
places. SLO and SHI do unless an ADC or MULADD is running. -/
def Obligations.RegistersReadTheirCurrentValues : Prop :=
  ∀ (s : State) (rest : List Event),
    (s.inputs = .access ⟨.read, 8, 0x0000⟩ :: rest → step s = .next (s.afterRead rest 0x41524954484D4F53#64)) ∧
    (s.maxLimbs ≤ 4096 → s.inputs = .access ⟨.read, 8, 0x0008⟩ :: rest →
      ∃ v : Word, step s = .next (s.afterRead rest v) ∧
        v.toNat = s.maxLimbs + 16 * 2 ^ 16 + 64 * 2 ^ 24 + 64 * 2 ^ 32) ∧
    (s.inputs = .access ⟨.read, 8, 0x0010⟩ :: rest → step s = .next (s.afterRead rest s.cmd)) ∧
    (s.inputs = .access ⟨.read, 8, 0x0018⟩ :: rest → ∃ v : Word, step s = .next (s.afterRead rest v) ∧
      v.toNat = (if s.engine = .running then 1 else 0) + (if s.done then 2 else 0) + (if s.overrun then 4 else 0) +
        256 * s.errCode.byte.toNat + 2 ^ 32 * s.errInfo.toNat) ∧
    (s.inputs = .access ⟨.read, 8, 0x0020⟩ :: rest → step s = .next (s.afterRead rest s.sa)) ∧
    (s.inputs = .access ⟨.read, 8, 0x0028⟩ :: rest → step s = .next (s.afterRead rest s.sb)) ∧
    (s.inputs = .access ⟨.read, 8, 0x0030⟩ :: rest → step s = .next (s.afterRead rest (s.scin.setWidth 64))) ∧
    (s.inputs = .access ⟨.read, 8, 0x0038⟩ :: rest → step s = .next (s.afterRead rest s.sacc)) ∧
    (s.inputs = .access ⟨.read, 8, 0x0050⟩ :: rest → step s = .next (s.afterRead rest s.exp)) ∧
    (s.inputs = .access ⟨.read, 8, 0x0058⟩ :: rest → step s = .next (s.afterRead rest (s.textLen.setWidth 64))) ∧
    (s.inputs = .access ⟨.read, 8, 0x0060⟩ :: rest → step s = .next (s.afterRead rest (BitVec.ofNat 64 s.nsel.val))) ∧
    ((s.engine = .running → s.cmd.toNat % 256 ∉ [0x01, 0x02]) →
      (s.inputs = .access ⟨.read, 8, 0x0040⟩ :: rest → step s = .next (s.afterRead rest s.slo)) ∧
      (s.inputs = .access ⟨.read, 8, 0x0048⟩ :: rest → step s = .next (s.afterRead rest s.shi)))

/-- 10_state.md R39, R43, 70_reset_and_hazards.md R208: LIMB[k] beyond MAX_LIMBS always reads 0 (log 12); NINFO and
LIMB[k] while x[NSEL] is not a running command's destination. The invariant keeps LEN within its field and below
MAX_LIMBS. -/
def Obligations.NumberWindowShowsTheSelectedRegister : Prop :=
  (∀ (s : State) (rest : List Event) (k : Nat), k < 4096 → s.maxLimbs ≤ k →
    s.inputs = .access ⟨.read, 8, 0x8000 + 8 * k⟩ :: rest → step s = .next (s.afterRead rest 0)) ∧
  (∀ (s : State) (rest : List Event) (k : Nat), s.Inv → k < 4096 →
    (s.engine = .running → s.cmd.toNat % 256 ∈ [0x10, 0x11, 0x12, 0x13, 0x20] →
      s.nsel.val ≠ s.cmd.toNat / 256 % 16) →
    (s.inputs = .access ⟨.read, 8, 0x0068⟩ :: rest → ∃ v : Word, step s = .next (s.afterRead rest v) ∧
      v.toNat = (if (s.num s.nsel).valid then 2 ^ 32 + (s.num s.nsel).len else 0)) ∧
    (s.inputs = .access ⟨.read, 8, 0x8000 + 8 * k⟩ :: rest → ∃ v : Word, step s = .next (s.afterRead rest v) ∧
      ((s.num s.nsel).valid = true → k < (s.num s.nsel).len → (s.num s.nsel).limbs[k]? = some v) ∧
      ((s.num s.nsel).valid = false ∨ (s.num s.nsel).len ≤ k → v = 0)))

/-- 70_reset_and_hazards.md R207: while a command runs, a read of its destination returns the free value of this
consultation, and the counter moves on so that the next read draws afresh (log 7). LIMB[k] beyond MAX_LIMBS, which
always reads 0, is not among these reads (10_state.md R43; log 12). The statement holds for every value of the free
value. -/
def Obligations.PendingDestinationReadsAnyValue : Prop :=
  ∀ (s : State) (off : Nat) (rest : List Event), s.engine = .running →
    s.inputs = .access ⟨.read, 8, off⟩ :: rest →
    ((s.cmd.toNat % 256 ∈ [0x01, 0x02] ∧ off ∈ [0x0040, 0x0048]) ∨
      (s.cmd.toNat % 256 ∈ [0x10, 0x11, 0x12, 0x13, 0x20] ∧ s.nsel.val = s.cmd.toNat / 256 % 16 ∧
        (off = 0x0068 ∨ ∃ k, k < 4096 ∧ k < s.maxLimbs ∧ off = 0x8000 + 8 * k))) →
    step s = .next (s.afterRead rest (Config.freeRead s.draws))

/-- 10_state.md R44, 20_memory.md R62, 70_reset_and_hazards.md R208: an idle TEXTW[k] write of the buffer sets its eight
bytes, the first the least significant, and no other byte, whatever comes next; a read of TEXTW[k] right after returns
the value; at any time, busy or not, a read of TEXTW[k] has every written byte in its place, and the free value of this
consultation in the place of a byte nothing has written (log 6). -/
def Obligations.TextWriteSetsEightBytes : Prop :=
  (∀ (s : State) (v : Word) (k : Nat) (rest : List Event), s.engine = .idle → k < 8192 → 8 * k < s.maxText →
    s.inputs = .access ⟨.write v, 8, 0x10000 + 8 * k⟩ :: rest →
    ∃ t, step s = .next t ∧
      (∀ m, m < 8 → Memory.read t.text (8 * k + m) = some (v.extractLsb' (8 * m) 8)) ∧
      (∀ a, a < 8 * k ∨ 8 * k + 8 ≤ a → Memory.read t.text a = Memory.read s.text a) ∧
      t = { s.afterWrite rest with text := t.text } ∧
      (∀ rest', rest = .access ⟨.read, 8, 0x10000 + 8 * k⟩ :: rest' → step t = .next (t.afterRead rest' v))) ∧
  (∀ (s : State) (k : Nat) (rest : List Event), k < 8192 → 8 * k < s.maxText →
    s.inputs = .access ⟨.read, 8, 0x10000 + 8 * k⟩ :: rest →
    ∃ v, step s = .next (s.afterRead rest v) ∧
      ∀ m, m < 8 → v.extractLsb' (8 * m) 8 =
        (Memory.read s.text (8 * k + m)).getD (Config.freeTextByte s.draws (8 * k + m)))

/-- 10_state.md R44: beyond MAX_TEXT, TEXTW[k] reads 0, busy or not, and while idle ignores writes without setting
OVERRUN. A write while BUSY = 1 is dropped like any other (R41; log 11). -/
def Obligations.TextBeyondTheBufferIsInert : Prop :=
  ∀ (s : State) (k : Nat) (rest : List Event), k < 8192 → s.maxText ≤ 8 * k →
    (s.inputs = .access ⟨.read, 8, 0x10000 + 8 * k⟩ :: rest → step s = .next (s.afterRead rest 0)) ∧
    (∀ v, s.engine = .idle → s.inputs = .access ⟨.write v, 8, 0x10000 + 8 * k⟩ :: rest →
      step s = .next (s.afterWrite rest))

/-- 20_memory.md R63, 60_exceptions.md R190: an access of another width or alignment changes no state of the block and
gives an error response with read data 0. That the block goes on, the fault recorded as a response, is the model's
reading (log 9). -/
def Obligations.AccessErrorsChangeNothing : Prop :=
  ∀ (s : State) (a : Access) (rest : List Event), a.off < 0x20000 → (a.width ≠ 8 ∨ a.off % 8 ≠ 0) →
    s.inputs = .access a :: rest →
    step s = .next { s with inputs := rest, responses := .accessFault 0 :: s.responses }

/-- 20_memory.md R66: an access at an offset at or above 0x20000 is not the block's: the model refuses it (log 10). -/
def Obligations.AccessesOutsideTheWindowAreRefused : Prop :=
  ∀ (s : State) (a : Access) (rest : List Event), s.inputs = .access a :: rest →
    (0x20000 ≤ a.off ↔ step s = .refused (.outsideWindow a.off))

/-- 20_memory.md R65: no read has a side effect: whatever it reads, the block's state is the same after it. -/
def Obligations.ReadsHaveNoSideEffect : Prop :=
  ∀ (s : State) (off : Nat) (rest : List Event), off < 0x20000 → off % 8 = 0 →
    s.inputs = .access ⟨.read, 8, off⟩ :: rest → ∃ v, step s = .next (s.afterRead rest v)

/-! ### Reset -/

/-- 10_state.md R49: the state after reset. That no byte of TEXT has a value is the model's form of "unspecified" (log 6). -/
def Obligations.ResetValues : Prop :=
  State.reset.engine = .idle ∧ State.reset.status = 0 ∧ State.reset.cmd = 0 ∧ State.reset.sa = 0 ∧
  State.reset.sb = 0 ∧ State.reset.sacc = 0 ∧ State.reset.slo = 0 ∧ State.reset.shi = 0 ∧ State.reset.exp = 0 ∧
  State.reset.scin = 0 ∧ State.reset.textLen = 0 ∧ State.reset.nsel = 0 ∧
  (∀ r : Reg, (State.reset.num r).valid = false ∧ (State.reset.num r).len = 0) ∧
  (∀ k, Memory.read State.reset.text k = none) ∧
  State.reset.settledRead .id = 0x41524954484D4F53#64

/-- 70_reset_and_hazards.md R200, R201: a reset puts every piece of the block's state at its reset value and abandons a
running command: no completion, DONE 0, no ERRCODE, every register unwritten. MAX_LIMBS and the model's own fields
stay (log 24). -/
def Obligations.ResetAbandonsTheCommand : Prop :=
  ∀ (s : State) (rest : List Event), s.inputs = .reset :: rest →
    step s = .next { State.reset with
      maxLimbs := s.maxLimbs, inputs := rest, responses := s.responses, draws := s.draws }
end

