-- ==== Sys2Proof/Laws/State.lean ====
section
/-!
SUPPORT. What each update of the state does to each field, true by rfl, so that no proof unfolds a record update.
-/

namespace Sys2Proof.Machine


/-! ### setNum -/

@[simp] theorem State.setNum_maxLimbs (s : State) (i : Reg) (n : List Limb) : (s.setNum i n).maxLimbs = s.maxLimbs := rfl
@[simp] theorem State.setNum_engine (s : State) (i : Reg) (n : List Limb) : (s.setNum i n).engine = s.engine := rfl
@[simp] theorem State.setNum_done (s : State) (i : Reg) (n : List Limb) : (s.setNum i n).done = s.done := rfl
@[simp] theorem State.setNum_overrun (s : State) (i : Reg) (n : List Limb) : (s.setNum i n).overrun = s.overrun := rfl
@[simp] theorem State.setNum_errCode (s : State) (i : Reg) (n : List Limb) : (s.setNum i n).errCode = s.errCode := rfl
@[simp] theorem State.setNum_errInfo (s : State) (i : Reg) (n : List Limb) : (s.setNum i n).errInfo = s.errInfo := rfl
@[simp] theorem State.setNum_cmd (s : State) (i : Reg) (n : List Limb) : (s.setNum i n).cmd = s.cmd := rfl
@[simp] theorem State.setNum_sa (s : State) (i : Reg) (n : List Limb) : (s.setNum i n).sa = s.sa := rfl
@[simp] theorem State.setNum_sb (s : State) (i : Reg) (n : List Limb) : (s.setNum i n).sb = s.sb := rfl
@[simp] theorem State.setNum_scin (s : State) (i : Reg) (n : List Limb) : (s.setNum i n).scin = s.scin := rfl
@[simp] theorem State.setNum_sacc (s : State) (i : Reg) (n : List Limb) : (s.setNum i n).sacc = s.sacc := rfl
@[simp] theorem State.setNum_slo (s : State) (i : Reg) (n : List Limb) : (s.setNum i n).slo = s.slo := rfl
@[simp] theorem State.setNum_shi (s : State) (i : Reg) (n : List Limb) : (s.setNum i n).shi = s.shi := rfl
@[simp] theorem State.setNum_exp (s : State) (i : Reg) (n : List Limb) : (s.setNum i n).exp = s.exp := rfl
@[simp] theorem State.setNum_textLen (s : State) (i : Reg) (n : List Limb) : (s.setNum i n).textLen = s.textLen := rfl
@[simp] theorem State.setNum_nsel (s : State) (i : Reg) (n : List Limb) : (s.setNum i n).nsel = s.nsel := rfl
@[simp] theorem State.setNum_text (s : State) (i : Reg) (n : List Limb) : (s.setNum i n).text = s.text := rfl
@[simp] theorem State.setNum_inputs (s : State) (i : Reg) (n : List Limb) : (s.setNum i n).inputs = s.inputs := rfl
@[simp] theorem State.setNum_responses (s : State) (i : Reg) (n : List Limb) : (s.setNum i n).responses = s.responses := rfl
@[simp] theorem State.setNum_draws (s : State) (i : Reg) (n : List Limb) : (s.setNum i n).draws = s.draws := rfl

/-! ### setScalars -/

@[simp] theorem State.setScalars_maxLimbs (s : State) (lo hi : Word) : (s.setScalars lo hi).maxLimbs = s.maxLimbs := rfl
@[simp] theorem State.setScalars_engine (s : State) (lo hi : Word) : (s.setScalars lo hi).engine = s.engine := rfl
@[simp] theorem State.setScalars_done (s : State) (lo hi : Word) : (s.setScalars lo hi).done = s.done := rfl
@[simp] theorem State.setScalars_overrun (s : State) (lo hi : Word) : (s.setScalars lo hi).overrun = s.overrun := rfl
@[simp] theorem State.setScalars_errCode (s : State) (lo hi : Word) : (s.setScalars lo hi).errCode = s.errCode := rfl
@[simp] theorem State.setScalars_errInfo (s : State) (lo hi : Word) : (s.setScalars lo hi).errInfo = s.errInfo := rfl
@[simp] theorem State.setScalars_cmd (s : State) (lo hi : Word) : (s.setScalars lo hi).cmd = s.cmd := rfl
@[simp] theorem State.setScalars_sa (s : State) (lo hi : Word) : (s.setScalars lo hi).sa = s.sa := rfl
@[simp] theorem State.setScalars_sb (s : State) (lo hi : Word) : (s.setScalars lo hi).sb = s.sb := rfl
@[simp] theorem State.setScalars_scin (s : State) (lo hi : Word) : (s.setScalars lo hi).scin = s.scin := rfl
@[simp] theorem State.setScalars_sacc (s : State) (lo hi : Word) : (s.setScalars lo hi).sacc = s.sacc := rfl
@[simp] theorem State.setScalars_slo (s : State) (lo hi : Word) : (s.setScalars lo hi).slo = lo := rfl
@[simp] theorem State.setScalars_shi (s : State) (lo hi : Word) : (s.setScalars lo hi).shi = hi := rfl
@[simp] theorem State.setScalars_exp (s : State) (lo hi : Word) : (s.setScalars lo hi).exp = s.exp := rfl
@[simp] theorem State.setScalars_textLen (s : State) (lo hi : Word) : (s.setScalars lo hi).textLen = s.textLen := rfl
@[simp] theorem State.setScalars_nsel (s : State) (lo hi : Word) : (s.setScalars lo hi).nsel = s.nsel := rfl
@[simp] theorem State.setScalars_x (s : State) (lo hi : Word) : (s.setScalars lo hi).x = s.x := rfl
@[simp] theorem State.setScalars_text (s : State) (lo hi : Word) : (s.setScalars lo hi).text = s.text := rfl
@[simp] theorem State.setScalars_inputs (s : State) (lo hi : Word) : (s.setScalars lo hi).inputs = s.inputs := rfl
@[simp] theorem State.setScalars_responses (s : State) (lo hi : Word) : (s.setScalars lo hi).responses = s.responses := rfl
@[simp] theorem State.setScalars_draws (s : State) (lo hi : Word) : (s.setScalars lo hi).draws = s.draws := rfl

/-! ### finish -/

@[simp] theorem State.finish_maxLimbs (s : State) (code : ErrCode) (info : BitVec 32) : (s.finish code info).maxLimbs = s.maxLimbs := rfl
@[simp] theorem State.finish_engine (s : State) (code : ErrCode) (info : BitVec 32) : (s.finish code info).engine = .idle := rfl
@[simp] theorem State.finish_done (s : State) (code : ErrCode) (info : BitVec 32) : (s.finish code info).done = true := rfl
@[simp] theorem State.finish_overrun (s : State) (code : ErrCode) (info : BitVec 32) : (s.finish code info).overrun = s.overrun := rfl
@[simp] theorem State.finish_errCode (s : State) (code : ErrCode) (info : BitVec 32) : (s.finish code info).errCode = code := rfl
@[simp] theorem State.finish_errInfo (s : State) (code : ErrCode) (info : BitVec 32) : (s.finish code info).errInfo = info := rfl
@[simp] theorem State.finish_cmd (s : State) (code : ErrCode) (info : BitVec 32) : (s.finish code info).cmd = s.cmd := rfl
@[simp] theorem State.finish_sa (s : State) (code : ErrCode) (info : BitVec 32) : (s.finish code info).sa = s.sa := rfl
@[simp] theorem State.finish_sb (s : State) (code : ErrCode) (info : BitVec 32) : (s.finish code info).sb = s.sb := rfl
@[simp] theorem State.finish_scin (s : State) (code : ErrCode) (info : BitVec 32) : (s.finish code info).scin = s.scin := rfl
@[simp] theorem State.finish_sacc (s : State) (code : ErrCode) (info : BitVec 32) : (s.finish code info).sacc = s.sacc := rfl
@[simp] theorem State.finish_slo (s : State) (code : ErrCode) (info : BitVec 32) : (s.finish code info).slo = s.slo := rfl
@[simp] theorem State.finish_shi (s : State) (code : ErrCode) (info : BitVec 32) : (s.finish code info).shi = s.shi := rfl
@[simp] theorem State.finish_exp (s : State) (code : ErrCode) (info : BitVec 32) : (s.finish code info).exp = s.exp := rfl
@[simp] theorem State.finish_textLen (s : State) (code : ErrCode) (info : BitVec 32) : (s.finish code info).textLen = s.textLen := rfl
@[simp] theorem State.finish_nsel (s : State) (code : ErrCode) (info : BitVec 32) : (s.finish code info).nsel = s.nsel := rfl
@[simp] theorem State.finish_x (s : State) (code : ErrCode) (info : BitVec 32) : (s.finish code info).x = s.x := rfl
@[simp] theorem State.finish_text (s : State) (code : ErrCode) (info : BitVec 32) : (s.finish code info).text = s.text := rfl
@[simp] theorem State.finish_inputs (s : State) (code : ErrCode) (info : BitVec 32) : (s.finish code info).inputs = s.inputs := rfl
@[simp] theorem State.finish_responses (s : State) (code : ErrCode) (info : BitVec 32) : (s.finish code info).responses = s.responses := rfl
@[simp] theorem State.finish_draws (s : State) (code : ErrCode) (info : BitVec 32) : (s.finish code info).draws = s.draws := rfl

/-! ### raise -/

@[simp] theorem State.raise_maxLimbs (s : State) (e : CmdError) : (s.raise e).maxLimbs = s.maxLimbs := rfl
@[simp] theorem State.raise_engine (s : State) (e : CmdError) : (s.raise e).engine = .idle := rfl
@[simp] theorem State.raise_done (s : State) (e : CmdError) : (s.raise e).done = true := rfl
@[simp] theorem State.raise_overrun (s : State) (e : CmdError) : (s.raise e).overrun = s.overrun := rfl
@[simp] theorem State.raise_errCode (s : State) (e : CmdError) : (s.raise e).errCode = e.code := rfl
@[simp] theorem State.raise_errInfo (s : State) (e : CmdError) : (s.raise e).errInfo = e.info := rfl
@[simp] theorem State.raise_cmd (s : State) (e : CmdError) : (s.raise e).cmd = s.cmd := rfl
@[simp] theorem State.raise_sa (s : State) (e : CmdError) : (s.raise e).sa = s.sa := rfl
@[simp] theorem State.raise_sb (s : State) (e : CmdError) : (s.raise e).sb = s.sb := rfl
@[simp] theorem State.raise_scin (s : State) (e : CmdError) : (s.raise e).scin = s.scin := rfl
@[simp] theorem State.raise_sacc (s : State) (e : CmdError) : (s.raise e).sacc = s.sacc := rfl
@[simp] theorem State.raise_slo (s : State) (e : CmdError) : (s.raise e).slo = s.slo := rfl
@[simp] theorem State.raise_shi (s : State) (e : CmdError) : (s.raise e).shi = s.shi := rfl
@[simp] theorem State.raise_exp (s : State) (e : CmdError) : (s.raise e).exp = s.exp := rfl
@[simp] theorem State.raise_textLen (s : State) (e : CmdError) : (s.raise e).textLen = s.textLen := rfl
@[simp] theorem State.raise_nsel (s : State) (e : CmdError) : (s.raise e).nsel = s.nsel := rfl
@[simp] theorem State.raise_x (s : State) (e : CmdError) : (s.raise e).x = s.x := rfl
@[simp] theorem State.raise_text (s : State) (e : CmdError) : (s.raise e).text = s.text := rfl
@[simp] theorem State.raise_inputs (s : State) (e : CmdError) : (s.raise e).inputs = s.inputs := rfl
@[simp] theorem State.raise_responses (s : State) (e : CmdError) : (s.raise e).responses = s.responses := rfl
@[simp] theorem State.raise_draws (s : State) (e : CmdError) : (s.raise e).draws = s.draws := rfl

/-! ### accept -/

@[simp] theorem State.accept_maxLimbs (s : State) (v : Word) : (s.accept v).maxLimbs = s.maxLimbs := rfl
@[simp] theorem State.accept_engine (s : State) (v : Word) : (s.accept v).engine = .running := rfl
@[simp] theorem State.accept_done (s : State) (v : Word) : (s.accept v).done = false := rfl
@[simp] theorem State.accept_overrun (s : State) (v : Word) : (s.accept v).overrun = s.overrun := rfl
@[simp] theorem State.accept_errCode (s : State) (v : Word) : (s.accept v).errCode = .none := rfl
@[simp] theorem State.accept_errInfo (s : State) (v : Word) : (s.accept v).errInfo = 0 := rfl
@[simp] theorem State.accept_cmd (s : State) (v : Word) : (s.accept v).cmd = v := rfl
@[simp] theorem State.accept_sa (s : State) (v : Word) : (s.accept v).sa = s.sa := rfl
@[simp] theorem State.accept_sb (s : State) (v : Word) : (s.accept v).sb = s.sb := rfl
@[simp] theorem State.accept_scin (s : State) (v : Word) : (s.accept v).scin = s.scin := rfl
@[simp] theorem State.accept_sacc (s : State) (v : Word) : (s.accept v).sacc = s.sacc := rfl
@[simp] theorem State.accept_slo (s : State) (v : Word) : (s.accept v).slo = s.slo := rfl
@[simp] theorem State.accept_shi (s : State) (v : Word) : (s.accept v).shi = s.shi := rfl
@[simp] theorem State.accept_exp (s : State) (v : Word) : (s.accept v).exp = s.exp := rfl
@[simp] theorem State.accept_textLen (s : State) (v : Word) : (s.accept v).textLen = s.textLen := rfl
@[simp] theorem State.accept_nsel (s : State) (v : Word) : (s.accept v).nsel = s.nsel := rfl
@[simp] theorem State.accept_x (s : State) (v : Word) : (s.accept v).x = s.x := rfl
@[simp] theorem State.accept_text (s : State) (v : Word) : (s.accept v).text = s.text := rfl
@[simp] theorem State.accept_inputs (s : State) (v : Word) : (s.accept v).inputs = s.inputs := rfl
@[simp] theorem State.accept_responses (s : State) (v : Word) : (s.accept v).responses = s.responses := rfl
@[simp] theorem State.accept_draws (s : State) (v : Word) : (s.accept v).draws = s.draws := rfl

/-! ### drawn -/

@[simp] theorem State.drawn_maxLimbs (s : State) : (s.drawn).maxLimbs = s.maxLimbs := rfl
@[simp] theorem State.drawn_engine (s : State) : (s.drawn).engine = s.engine := rfl
@[simp] theorem State.drawn_done (s : State) : (s.drawn).done = s.done := rfl
@[simp] theorem State.drawn_overrun (s : State) : (s.drawn).overrun = s.overrun := rfl
@[simp] theorem State.drawn_errCode (s : State) : (s.drawn).errCode = s.errCode := rfl
@[simp] theorem State.drawn_errInfo (s : State) : (s.drawn).errInfo = s.errInfo := rfl
@[simp] theorem State.drawn_cmd (s : State) : (s.drawn).cmd = s.cmd := rfl
@[simp] theorem State.drawn_sa (s : State) : (s.drawn).sa = s.sa := rfl
@[simp] theorem State.drawn_sb (s : State) : (s.drawn).sb = s.sb := rfl
@[simp] theorem State.drawn_scin (s : State) : (s.drawn).scin = s.scin := rfl
@[simp] theorem State.drawn_sacc (s : State) : (s.drawn).sacc = s.sacc := rfl
@[simp] theorem State.drawn_slo (s : State) : (s.drawn).slo = s.slo := rfl
@[simp] theorem State.drawn_shi (s : State) : (s.drawn).shi = s.shi := rfl
@[simp] theorem State.drawn_exp (s : State) : (s.drawn).exp = s.exp := rfl
@[simp] theorem State.drawn_textLen (s : State) : (s.drawn).textLen = s.textLen := rfl
@[simp] theorem State.drawn_nsel (s : State) : (s.drawn).nsel = s.nsel := rfl
@[simp] theorem State.drawn_x (s : State) : (s.drawn).x = s.x := rfl
@[simp] theorem State.drawn_text (s : State) : (s.drawn).text = s.text := rfl
@[simp] theorem State.drawn_inputs (s : State) : (s.drawn).inputs = s.inputs := rfl
@[simp] theorem State.drawn_responses (s : State) : (s.drawn).responses = s.responses := rfl
@[simp] theorem State.drawn_draws (s : State) : (s.drawn).draws = s.draws + 1 := rfl

/-! ### respond -/

@[simp] theorem State.respond_maxLimbs (s : State) (r : Response) : (s.respond r).maxLimbs = s.maxLimbs := rfl
@[simp] theorem State.respond_engine (s : State) (r : Response) : (s.respond r).engine = s.engine := rfl
@[simp] theorem State.respond_done (s : State) (r : Response) : (s.respond r).done = s.done := rfl
@[simp] theorem State.respond_overrun (s : State) (r : Response) : (s.respond r).overrun = s.overrun := rfl
@[simp] theorem State.respond_errCode (s : State) (r : Response) : (s.respond r).errCode = s.errCode := rfl
@[simp] theorem State.respond_errInfo (s : State) (r : Response) : (s.respond r).errInfo = s.errInfo := rfl
@[simp] theorem State.respond_cmd (s : State) (r : Response) : (s.respond r).cmd = s.cmd := rfl
@[simp] theorem State.respond_sa (s : State) (r : Response) : (s.respond r).sa = s.sa := rfl
@[simp] theorem State.respond_sb (s : State) (r : Response) : (s.respond r).sb = s.sb := rfl
@[simp] theorem State.respond_scin (s : State) (r : Response) : (s.respond r).scin = s.scin := rfl
@[simp] theorem State.respond_sacc (s : State) (r : Response) : (s.respond r).sacc = s.sacc := rfl
@[simp] theorem State.respond_slo (s : State) (r : Response) : (s.respond r).slo = s.slo := rfl
@[simp] theorem State.respond_shi (s : State) (r : Response) : (s.respond r).shi = s.shi := rfl
@[simp] theorem State.respond_exp (s : State) (r : Response) : (s.respond r).exp = s.exp := rfl
@[simp] theorem State.respond_textLen (s : State) (r : Response) : (s.respond r).textLen = s.textLen := rfl
@[simp] theorem State.respond_nsel (s : State) (r : Response) : (s.respond r).nsel = s.nsel := rfl
@[simp] theorem State.respond_x (s : State) (r : Response) : (s.respond r).x = s.x := rfl
@[simp] theorem State.respond_text (s : State) (r : Response) : (s.respond r).text = s.text := rfl
@[simp] theorem State.respond_inputs (s : State) (r : Response) : (s.respond r).inputs = s.inputs := rfl
@[simp] theorem State.respond_responses (s : State) (r : Response) : (s.respond r).responses = r :: s.responses := rfl
@[simp] theorem State.respond_draws (s : State) (r : Response) : (s.respond r).draws = s.draws := rfl

/-! ### platformReset -/

@[simp] theorem State.platformReset_maxLimbs (s : State) : (s.platformReset).maxLimbs = s.maxLimbs := rfl
@[simp] theorem State.platformReset_engine (s : State) : (s.platformReset).engine = State.reset.engine := rfl
@[simp] theorem State.platformReset_done (s : State) : (s.platformReset).done = State.reset.done := rfl
@[simp] theorem State.platformReset_overrun (s : State) : (s.platformReset).overrun = State.reset.overrun := rfl
@[simp] theorem State.platformReset_errCode (s : State) : (s.platformReset).errCode = State.reset.errCode := rfl
@[simp] theorem State.platformReset_errInfo (s : State) : (s.platformReset).errInfo = State.reset.errInfo := rfl
@[simp] theorem State.platformReset_cmd (s : State) : (s.platformReset).cmd = State.reset.cmd := rfl
@[simp] theorem State.platformReset_sa (s : State) : (s.platformReset).sa = State.reset.sa := rfl
@[simp] theorem State.platformReset_sb (s : State) : (s.platformReset).sb = State.reset.sb := rfl
@[simp] theorem State.platformReset_scin (s : State) : (s.platformReset).scin = State.reset.scin := rfl
@[simp] theorem State.platformReset_sacc (s : State) : (s.platformReset).sacc = State.reset.sacc := rfl
@[simp] theorem State.platformReset_slo (s : State) : (s.platformReset).slo = State.reset.slo := rfl
@[simp] theorem State.platformReset_shi (s : State) : (s.platformReset).shi = State.reset.shi := rfl
@[simp] theorem State.platformReset_exp (s : State) : (s.platformReset).exp = State.reset.exp := rfl
@[simp] theorem State.platformReset_textLen (s : State) : (s.platformReset).textLen = State.reset.textLen := rfl
@[simp] theorem State.platformReset_nsel (s : State) : (s.platformReset).nsel = State.reset.nsel := rfl
@[simp] theorem State.platformReset_x (s : State) : (s.platformReset).x = State.reset.x := rfl
@[simp] theorem State.platformReset_text (s : State) : (s.platformReset).text = State.reset.text := rfl
@[simp] theorem State.platformReset_inputs (s : State) : (s.platformReset).inputs = s.inputs := rfl
@[simp] theorem State.platformReset_responses (s : State) : (s.platformReset).responses = s.responses := rfl
@[simp] theorem State.platformReset_draws (s : State) : (s.platformReset).draws = s.draws := rfl

/-! ### Number registers -/

@[simp] theorem State.num_setNum_same (s : State) (i : Reg) (n : List Limb) : (s.setNum i n).num i = ⟨true, n⟩ := by
  simp [State.num, State.setNum]

theorem State.num_setNum_other (s : State) {i j : Reg} (n : List Limb) (h : j ≠ i) : (s.setNum i n).num j = s.num j := by
  have h' : i.val ≠ j.val := fun e => h (Fin.ext e.symm)
  simp [State.num, State.setNum, Vector.getElem_set_ne _ _ h']

@[simp] theorem State.num_setScalars (s : State) (lo hi : Word) (j : Reg) : (s.setScalars lo hi).num j = s.num j := rfl
@[simp] theorem State.num_finish (s : State) (code : ErrCode) (info : BitVec 32) (j : Reg) : (s.finish code info).num j = s.num j := rfl
@[simp] theorem State.num_raise (s : State) (e : CmdError) (j : Reg) : (s.raise e).num j = s.num j := rfl
@[simp] theorem State.num_accept (s : State) (v : Word) (j : Reg) : (s.accept v).num j = s.num j := rfl
@[simp] theorem State.num_drawn (s : State) (j : Reg) : (s.drawn).num j = s.num j := rfl
@[simp] theorem State.num_respond (s : State) (r : Response) (j : Reg) : (s.respond r).num j = s.num j := rfl

/-- An update of the model's own fields leaves the number registers alone. -/
@[simp] theorem State.num_inputs (s : State) (l : List Event) (r : Reg) : State.num { s with inputs := l } r = s.num r := rfl

/-- Every number register is unwritten after reset (10_state.md R49). -/
@[simp] theorem State.num_reset (r : Reg) : State.reset.num r = NumReg.unwritten := by
  simp [State.num, State.reset]

@[simp] theorem State.num_platformReset (s : State) (r : Reg) : s.platformReset.num r = NumReg.unwritten := by
  simp [State.num, State.platformReset, State.reset]

/-! ### Completion, by how the rule ended -/

@[simp] theorem State.complete_number (s : State) (rd : Reg) (n : List Limb) :
    s.complete (.number rd n) = (s.setNum rd n).finish .none 0 := rfl

@[simp] theorem State.complete_scalars (s : State) (lo hi : Word) :
    s.complete (.scalars lo hi) = (s.setScalars lo hi).finish .none 0 := rfl

@[simp] theorem State.complete_error (s : State) (e : CmdError) : s.complete (.error e) = s.raise e := rfl

/-! ### BUSY -/

/-- BUSY = 1 exactly when ENGINE = RUNNING (10_state.md R22). -/
theorem State.busy_iff (s : State) : s.busy = true ↔ s.engine = .running := by
  cases h : s.engine <;> simp [State.busy, h]

@[simp] theorem State.busy_finish (s : State) (code : ErrCode) (info : BitVec 32) : (s.finish code info).busy = false := rfl

@[simp] theorem State.busy_accept (s : State) (v : Word) : (s.accept v).busy = true := rfl

end Sys2Proof.Machine
end

