-- ==== Sys2Proof/Laws/Operands.lean ====
section
/-!
SUPPORT. What the operand forms can do: a source register is its limbs or UNWRITTEN, RA before RB.
-/

namespace Sys2Proof.Machine

theorem State.source_valid {s : State} {r : Reg} (h : (s.num r).valid = true) : s.source r = .ok (s.num r).limbs := by
  simp [State.source, h]

theorem State.source_unwritten {s : State} {r : Reg} (h : (s.num r).valid = false) :
    s.source r = .error (.unwritten r) := by
  simp [State.source, h]

theorem withSource_valid {s : State} {ra : Reg} (h : (s.num ra).valid = true) (rule : List Limb → CmdResult) :
    withSource s ra rule = rule (s.num ra).limbs := by
  simp [withSource, State.source_valid h]

theorem withSource_unwritten {s : State} {ra : Reg} (h : (s.num ra).valid = false) (rule : List Limb → CmdResult) :
    withSource s ra rule = .error (.unwritten ra) := by
  simp [withSource, State.source_unwritten h]

/-- Everything form F_DA can do with its source. -/
theorem withSource_cases (s : State) (ra : Reg) (rule : List Limb → CmdResult) :
    ((s.num ra).valid = false ∧ withSource s ra rule = .error (.unwritten ra)) ∨
      ((s.num ra).valid = true ∧ withSource s ra rule = rule (s.num ra).limbs) := by
  cases h : (s.num ra).valid
  · exact .inl ⟨rfl, withSource_unwritten h rule⟩
  · exact .inr ⟨rfl, withSource_valid h rule⟩

theorem withSources_valid {s : State} {ra rb : Reg} (ha : (s.num ra).valid = true) (hb : (s.num rb).valid = true)
    (rule : List Limb → List Limb → CmdResult) :
    withSources s ra rb rule = rule (s.num ra).limbs (s.num rb).limbs := by
  rw [withSources, withSource_valid ha, withSource_valid hb]

/-- Everything form F_DAB can do with its sources, in the order of 60_exceptions.md R187. -/
theorem withSources_cases (s : State) (ra rb : Reg) (rule : List Limb → List Limb → CmdResult) :
    ((s.num ra).valid = false ∧ withSources s ra rb rule = .error (.unwritten ra)) ∨
      ((s.num ra).valid = true ∧ (s.num rb).valid = false ∧ withSources s ra rb rule = .error (.unwritten rb)) ∨
      ((s.num ra).valid = true ∧ (s.num rb).valid = true ∧
        withSources s ra rb rule = rule (s.num ra).limbs (s.num rb).limbs) := by
  obtain ⟨ha, h⟩ | ⟨ha, h⟩ := withSource_cases s ra fun a => withSource s rb fun b => rule a b
  · exact .inl ⟨ha, h⟩
  · obtain ⟨hb, h'⟩ | ⟨hb, h'⟩ := withSource_cases s rb fun b => rule (s.num ra).limbs b
    · exact .inr (.inl ⟨ha, hb, h.trans h'⟩)
    · exact .inr (.inr ⟨ha, hb, h.trans h'⟩)

/-- A written text byte is the byte written, whatever the free values are. -/
theorem State.textByte_written {s : State} {k : Nat} {b : Byte} (h : Memory.read s.text k = some b) :
    s.textByte k = b := by
  simp [State.textByte, h]

/-- A text whose every byte has been written reads as what was written. -/
theorem State.textOf_written {s : State} {t : List Byte}
    (h : ∀ k, ∀ hk : k < t.length, Memory.read s.text k = some t[k]) : s.textOf t.length = t := by
  apply List.ext_getElem
  · simp [State.textOf]
  · intro k h1 h2
    simp [State.textOf, State.textByte_written (h k h2)]

end Sys2Proof.Machine
end

