-- ==== Sys2Proof/Laws/Commands.lean ====
section
/-!
SUPPORT. What a command's completion can do: one equation per command and one inversion for all of them.
-/

namespace Sys2Proof.Machine

theorem exec_adc (s : State) : exec .adc s = .next (s.complete (adcRule s)) := rfl
theorem exec_muladd (s : State) : exec .muladd s = .next (s.complete (muladdRule s)) := rfl
theorem exec_add (rd ra rb : Reg) (s : State) : exec (.add rd ra rb) s = .next (s.complete (addRule rd ra rb s)) := rfl
theorem exec_sub (rd ra rb : Reg) (s : State) : exec (.sub rd ra rb) s = .next (s.complete (subRule rd ra rb s)) := rfl
theorem exec_mul (rd ra rb : Reg) (s : State) : exec (.mul rd ra rb) s = .next (s.complete (mulRule rd ra rb s)) := rfl
theorem exec_pow (rd ra : Reg) (s : State) : exec (.pow rd ra) s = .next (s.complete (powRule rd ra s)) := rfl
theorem exec_parse (rd : Reg) (s : State) : exec (.parse rd) s = .next (s.complete (parseRule rd s)).drawn := rfl

/-! ### What each rule can end with -/

theorem addRule_cases (rd ra rb : Reg) (s : State) :
    ((s.num ra).valid = false ∧ addRule rd ra rb s = .error (.unwritten ra)) ∨
    ((s.num ra).valid = true ∧ (s.num rb).valid = false ∧ addRule rd ra rb s = .error (.unwritten rb)) ∨
    ((s.num ra).valid = true ∧ (s.num rb).valid = true ∧
      s.maxLimbs < (add (s.num ra).limbs (s.num rb).limbs).length ∧ addRule rd ra rb s = .error .capacity) ∨
    ((s.num ra).valid = true ∧ (s.num rb).valid = true ∧
      (add (s.num ra).limbs (s.num rb).limbs).length ≤ s.maxLimbs ∧
      addRule rd ra rb s = .number rd (add (s.num ra).limbs (s.num rb).limbs)) := by
  obtain ⟨ha, h⟩ | ⟨ha, hb, h⟩ | ⟨ha, hb, h⟩ := withSources_cases s ra rb fun a b =>
    if (add a b).length > s.maxLimbs then .error .capacity else .number rd (add a b)
  · exact .inl ⟨ha, h⟩
  · exact .inr (.inl ⟨ha, hb, h⟩)
  · by_cases hc : (add (s.num ra).limbs (s.num rb).limbs).length > s.maxLimbs
    · exact .inr (.inr (.inl ⟨ha, hb, hc, h.trans (if_pos hc)⟩))
    · exact .inr (.inr (.inr ⟨ha, hb, Nat.not_lt.mp hc, h.trans (if_neg hc)⟩))

theorem subRule_cases (rd ra rb : Reg) (s : State) :
    ((s.num ra).valid = false ∧ subRule rd ra rb s = .error (.unwritten ra)) ∨
    ((s.num ra).valid = true ∧ (s.num rb).valid = false ∧ subRule rd ra rb s = .error (.unwritten rb)) ∨
    ((s.num ra).valid = true ∧ (s.num rb).valid = true ∧
      subRule rd ra rb s = .number rd (sub (s.num ra).limbs (s.num rb).limbs)) :=
  withSources_cases s ra rb fun a b => .number rd (sub a b)

theorem mulRule_cases (rd ra rb : Reg) (s : State) :
    ((s.num ra).valid = false ∧ mulRule rd ra rb s = .error (.unwritten ra)) ∨
    ((s.num ra).valid = true ∧ (s.num rb).valid = false ∧ mulRule rd ra rb s = .error (.unwritten rb)) ∨
    ((s.num ra).valid = true ∧ (s.num rb).valid = true ∧
      s.maxLimbs < (s.num ra).len + (s.num rb).len ∧ mulRule rd ra rb s = .error .capacity) ∨
    ((s.num ra).valid = true ∧ (s.num rb).valid = true ∧ (s.num ra).len + (s.num rb).len ≤ s.maxLimbs ∧
      mulRule rd ra rb s = .number rd (mul (s.num ra).limbs (s.num rb).limbs)) := by
  obtain ⟨ha, h⟩ | ⟨ha, hb, h⟩ | ⟨ha, hb, h⟩ := withSources_cases s ra rb fun a b =>
    if a.length + b.length > s.maxLimbs then .error .capacity else .number rd (mul a b)
  · exact .inl ⟨ha, h⟩
  · exact .inr (.inl ⟨ha, hb, h⟩)
  · by_cases hc : (s.num ra).limbs.length + (s.num rb).limbs.length > s.maxLimbs
    · exact .inr (.inr (.inl ⟨ha, hb, hc, h.trans (if_pos hc)⟩))
    · exact .inr (.inr (.inr ⟨ha, hb, Nat.not_lt.mp hc, h.trans (if_neg hc)⟩))

theorem powRule_cases (rd ra : Reg) (s : State) :
    ((s.num ra).valid = false ∧ powRule rd ra s = .error (.unwritten ra)) ∨
    ((s.num ra).valid = true ∧ s.maxLimbs < 1 + (s.num ra).len * s.exp.toNat ∧ powRule rd ra s = .error .capacity) ∨
    ((s.num ra).valid = true ∧ 1 + (s.num ra).len * s.exp.toNat ≤ s.maxLimbs ∧
      powRule rd ra s = .number rd (pow (s.num ra).limbs s.exp)) := by
  obtain ⟨ha, h⟩ | ⟨ha, h⟩ := withSource_cases s ra fun base =>
    if 1 + base.length * s.exp.toNat > s.maxLimbs then .error .capacity else .number rd (pow base s.exp)
  · exact .inl ⟨ha, h⟩
  · by_cases hc : 1 + (s.num ra).limbs.length * s.exp.toNat > s.maxLimbs
    · exact .inr (.inl ⟨ha, hc, h.trans (if_pos hc)⟩)
    · exact .inr (.inr ⟨ha, Nat.not_lt.mp hc, h.trans (if_neg hc)⟩)

theorem parseRule_cases (rd : Reg) (s : State) :
    (s.maxText < s.textLen.toNat ∧ parseRule rd s = .error .capacity) ∨
    (s.textLen.toNat ≤ s.maxText ∧ ∃ k, firstBad 0 (s.textOf s.textLen.toNat) = some k ∧
      parseRule rd s = .error (.parse k)) ∨
    (s.textLen.toNat ≤ s.maxText ∧ firstBad 0 (s.textOf s.textLen.toNat) = none ∧
      parseRule rd s = .number rd (limbsOfText (s.textOf s.textLen.toNat))) := by
  unfold parseRule
  by_cases h : s.textLen.toNat > s.maxText
  · exact .inl ⟨h, if_pos h⟩
  · simp only [h, if_false, parse]
    cases hb : firstBad 0 (s.textOf s.textLen.toNat) with
    | none => exact .inr (.inr ⟨Nat.not_lt.mp h, rfl, rfl⟩)
    | some k => exact .inr (.inl ⟨Nat.not_lt.mp h, k, rfl, rfl⟩)

/-! ### All commands -/

/-- The results a command can end with: SLO and SHI for ADC and MULADD, a number for the register RD names otherwise,
or an error. -/
def resultFits (i : Instr) : CmdResult → Prop
  | .error _ => True
  | .scalars _ _ => i = .adc ∨ i = .muladd
  | .number r _ =>
    (∃ ra rb, i = .add r ra rb) ∨ (∃ ra rb, i = .sub r ra rb) ∨ (∃ ra rb, i = .mul r ra rb) ∨
      (∃ ra, i = .pow r ra) ∨ i = .parse r

theorem State.complete_drawn (s : State) (r : CmdResult) :
    (s.complete r).drawn = { s.complete r with draws := s.draws + 1 } := by
  cases r <;> rfl

theorem State.complete_draws (s : State) (r : CmdResult) : { s.complete r with draws := s.draws } = s.complete r := by
  cases r <;> rfl

/-- Every command completes: its rule ends in a result that fits it, and only the draw counter can move besides. -/
theorem exec_completes (i : Instr) (s : State) :
    ∃ r d, exec i s = .next { s.complete r with draws := d } ∧ resultFits i r := by
  cases i with
  | adc => exact ⟨adcRule s, s.draws, rfl, .inl rfl⟩
  | muladd => exact ⟨muladdRule s, s.draws, rfl, .inr rfl⟩
  | add rd ra rb =>
    refine ⟨addRule rd ra rb s, s.draws, by rw [exec_add, State.complete_draws], ?_⟩
    obtain ⟨_, h⟩ | ⟨_, _, h⟩ | ⟨_, _, _, h⟩ | ⟨_, _, _, h⟩ := addRule_cases rd ra rb s <;> simp [h, resultFits]
  | sub rd ra rb =>
    refine ⟨subRule rd ra rb s, s.draws, by rw [exec_sub, State.complete_draws], ?_⟩
    obtain ⟨_, h⟩ | ⟨_, _, h⟩ | ⟨_, _, h⟩ := subRule_cases rd ra rb s <;> simp [h, resultFits]
  | mul rd ra rb =>
    refine ⟨mulRule rd ra rb s, s.draws, by rw [exec_mul, State.complete_draws], ?_⟩
    obtain ⟨_, h⟩ | ⟨_, _, h⟩ | ⟨_, _, _, h⟩ | ⟨_, _, _, h⟩ := mulRule_cases rd ra rb s <;> simp [h, resultFits]
  | pow rd ra =>
    refine ⟨powRule rd ra s, s.draws, by rw [exec_pow, State.complete_draws], ?_⟩
    obtain ⟨_, h⟩ | ⟨_, _, h⟩ | ⟨_, _, h⟩ := powRule_cases rd ra s <;> simp [h, resultFits]
  | parse rd =>
    refine ⟨parseRule rd s, s.draws + 1, by rw [exec_parse, State.complete_drawn], ?_⟩
    obtain ⟨_, h⟩ | ⟨_, _, _, h⟩ | ⟨_, _, h⟩ := parseRule_cases rd s <;> simp [h, resultFits]

end Sys2Proof.Machine
end

