-- ==== Sys2Proof/Laws/Config.lean ====
section
/-!
SUPPORT. The range of MAX_LIMBS, which every choice of the implementation meets and fills, and the place of the window.
-/

namespace Sys2Proof.Config

theorem maxLimbs_ge : 32 ≤ maxLimbs := by unfold maxLimbs; omega

theorem maxLimbs_le : maxLimbs ≤ 4096 := by unfold maxLimbs; omega

end Sys2Proof.Config

namespace Sys2Proof.Machine

/-- Offset `off` of the window stands at the platform address WINDOW_BASE + off (20_memory.md R60). -/
theorem Access.atAddress_base (kind : AccessKind) (width : Nat) {off : Nat} (h : off < Config.windowSize) :
    Access.atAddress kind width (Config.windowBase + off) = some ⟨kind, width, off⟩ := by
  simp [Access.atAddress, h]

/-- An address outside the window stands for no access of the block (20_memory.md R60, R66). -/
theorem Access.atAddress_outside (kind : AccessKind) (width : Nat) {addr : Nat}
    (h : addr < Config.windowBase ∨ Config.windowBase + Config.windowSize ≤ addr) :
    Access.atAddress kind width addr = none := by
  unfold Access.atAddress
  rw [if_neg (by omega)]

end Sys2Proof.Machine
end

