-- ==== Sys2Proof/Laws/Memory.lean ====
section
/-!
SUPPORT. The laws of the byte memory: a read after a write, every other byte unchanged, and the canonical form kept by
every operation.
-/

namespace Sys2Proof.Machine

@[simp] theorem Memory.read_nil (k : Nat) : Memory.read [] k = none := rfl

@[simp] theorem Memory.read_write_same (m : Memory) (k : Nat) (v : Byte) :
    Memory.read (Memory.write m k v) k = some v := by
  induction m with
  | nil => simp [Memory.write, Memory.read]
  | cons c m ih =>
    obtain ⟨a, b⟩ := c
    by_cases h1 : k < a
    · simp [Memory.write, Memory.read, h1]
    · by_cases h2 : k = a <;> simp [Memory.write, Memory.read, h1, h2, ih]

theorem Memory.read_write_other (m : Memory) {k j : Nat} (v : Byte) (h : j ≠ k) :
    Memory.read (Memory.write m k v) j = Memory.read m j := by
  induction m with
  | nil => simp [Memory.write, Memory.read, Memory.unlisted, h]
  | cons c m ih =>
    obtain ⟨a, b⟩ := c
    by_cases h1 : k < a
    · simp [Memory.write, Memory.read, h1, h]
    · by_cases h2 : k = a
      · subst h2
        simp [Memory.write, Memory.read, h]
      · by_cases h3 : j = a <;> simp [Memory.write, Memory.read, h1, h2, h3, ih]

/-- A write at or above the lower bound keeps the rising order. -/
theorem Memory.risingFrom_write {k : Nat} (m : Memory) {a : Nat} (v : Byte) (hk : k ≤ a)
    (h : Memory.risingFrom k m = true) : Memory.risingFrom k (Memory.write m a v) = true := by
  induction m generalizing k with
  | nil => simpa [Memory.write, Memory.risingFrom] using hk
  | cons c m ih =>
    obtain ⟨b, w⟩ := c
    simp only [Memory.risingFrom, Bool.and_eq_true, decide_eq_true_eq] at h
    by_cases h1 : a < b
    · simp only [Memory.write, h1, if_true, Memory.risingFrom, Bool.and_eq_true, decide_eq_true_eq]
      exact ⟨hk, h1, h.2⟩
    · by_cases h2 : a = b
      · subst h2
        simpa [Memory.write, Memory.risingFrom] using h
      · simp only [Memory.write, h1, h2, if_false, Memory.risingFrom, Bool.and_eq_true, decide_eq_true_eq]
        exact ⟨h.1, ih (by omega) h.2⟩

theorem Memory.wf_nil : Memory.wf [] = true := rfl

theorem Memory.wf_write (m : Memory) (a : Nat) (v : Byte) (h : Memory.wf m = true) :
    Memory.wf (Memory.write m a v) = true :=
  Memory.risingFrom_write m v (Nat.zero_le a) h

theorem Memory.below_write {n : Nat} (m : Memory) {a : Nat} (v : Byte) (ha : a < n) (h : Memory.below n m = true) :
    Memory.below n (Memory.write m a v) = true := by
  induction m with
  | nil => simpa [Memory.write, Memory.below] using ha
  | cons c m ih =>
    obtain ⟨b, w⟩ := c
    simp only [Memory.below, List.all_cons, Bool.and_eq_true, decide_eq_true_eq] at h ih ⊢
    by_cases h1 : a < b
    · simp [Memory.write, h1, ha, h.1, h.2]
    · by_cases h2 : a = b
      · simp [Memory.write, h2, h.1, h.2]
      · simp [Memory.write, h1, h2, h.1, ih h.2]

theorem Memory.wf_writeBytes (bs : List Byte) (m : Memory) (a : Nat) (h : Memory.wf m = true) :
    Memory.wf (Memory.writeBytes m a bs) = true := by
  induction bs generalizing m a with
  | nil => exact h
  | cons b bs ih => exact ih _ _ (Memory.wf_write m a b h)

theorem Memory.below_writeBytes {n : Nat} (bs : List Byte) (m : Memory) (a : Nat) (ha : a + bs.length ≤ n)
    (h : Memory.below n m = true) : Memory.below n (Memory.writeBytes m a bs) = true := by
  induction bs generalizing m a with
  | nil => exact h
  | cons b bs ih =>
    rw [List.length_cons] at ha
    exact ih _ _ (by omega) (Memory.below_write m b (by omega) h)

theorem Memory.read_writeBytes_outside (bs : List Byte) (m : Memory) (a : Nat) {j : Nat}
    (h : j < a ∨ a + bs.length ≤ j) : Memory.read (Memory.writeBytes m a bs) j = Memory.read m j := by
  induction bs generalizing m a with
  | nil => rfl
  | cons b bs ih =>
    rw [List.length_cons] at h
    rw [Memory.writeBytes, ih _ _ (by omega), Memory.read_write_other m b (by omega)]

theorem Memory.read_writeBytes_inside (bs : List Byte) (m : Memory) (a : Nat) {i : Nat} (h : i < bs.length) :
    Memory.read (Memory.writeBytes m a bs) (a + i) = some bs[i] := by
  induction bs generalizing m a i with
  | nil => simp at h
  | cons b bs ih =>
    cases i with
    | zero => rw [Memory.writeBytes, Memory.read_writeBytes_outside _ _ _ (by omega)]; simp
    | succ i =>
      have h' : i < bs.length := by simpa using h
      rw [Memory.writeBytes, show a + (i + 1) = a + 1 + i by omega, ih _ _ h']
      simp

end Sys2Proof.Machine
end

