-- ==== Sys2Proof/Laws/PerInstr.lean ====
section
/-!
SUPPORT. Statements made for every command as it is written, one lemma per constructor.
-/

namespace Sys2Proof.Laws.Form

/-- The command's fields are well-formed, its opcode is the one its row matches, and that opcode has a form
(30_encoding.md R87, R88). -/
def Statement (i : Instr) : Prop :=
  (fields i).WellFormed = true ∧ (fields i).op = (rowMatch i).extractLsb' 0 8 ∧ (formOf (fields i).op).isSome = true

theorem adc : Statement .adc := by unfold Statement; decide
theorem muladd : Statement .muladd := by unfold Statement; decide
theorem add (rd ra rb : Reg) : Statement (.add rd ra rb) := ⟨rfl, rfl, rfl⟩
theorem sub (rd ra rb : Reg) : Statement (.sub rd ra rb) := ⟨rfl, rfl, rfl⟩
theorem mul (rd ra rb : Reg) : Statement (.mul rd ra rb) := ⟨rfl, rfl, rfl⟩
theorem pow (rd ra : Reg) : Statement (.pow rd ra) := ⟨rfl, rfl, rfl⟩
theorem parse (rd : Reg) : Statement (.parse rd) := ⟨rfl, rfl, rfl⟩

end Sys2Proof.Laws.Form
end

