-- ==== Sys2Proof/Laws/Step.lean ====
section
/-!
SUPPORT. One equation per event, and the one inversion that says everything a step can do.
-/

namespace Sys2Proof.Machine

/-- A step with the engine running and no event before its turn. -/
theorem step_running {s : State} (he : s.engine = .running) (hi : s.inputs = []) : step s = s.engineComplete := by
  simp [step, State.advance, State.engineTurn, he, hi]

theorem step_idle {s : State} (he : s.engine = .idle) (hi : s.inputs = []) : step s = .next s := by
  simp [step, State.advance, State.engineTurn, he, hi]

theorem step_engineTurn {s : State} {rest : List Event} (hi : s.inputs = .engineTurn :: rest) :
    step s = { s with inputs := rest }.engineTurn := by
  simp [step, State.advance, hi]

theorem step_reset {s : State} {rest : List Event} (hi : s.inputs = .reset :: rest) :
    step s = .next { s with inputs := rest }.platformReset := by
  simp [step, State.advance, hi]

theorem step_access {s : State} {a : Access} {rest : List Event} (hi : s.inputs = .access a :: rest) :
    step s = { s with inputs := rest }.hostAccess a := by
  simp [step, State.advance, hi]

/-- An 8-byte aligned read inside the window. -/
theorem hostAccess_read {s : State} {off : Nat} (h : off < Config.windowSize) (ha : off % 8 = 0) :
    s.hostAccess ⟨.read, 8, off⟩ = .next (s.respond (.data (s.hostRead (winReg off)))).drawn := by
  simp [State.hostAccess, Access.isError, Nat.not_le.mpr h, ha]

/-- An 8-byte aligned write inside the window. -/
theorem hostAccess_write {s : State} {v : Word} {off : Nat} (h : off < Config.windowSize) (ha : off % 8 = 0) :
    s.hostAccess ⟨.write v, 8, off⟩ = .next ((s.hostWrite (winReg off) v).respond .written) := by
  simp [State.hostAccess, Access.isError, Nat.not_le.mpr h, ha]

/-- Everything a host access can do. -/
theorem hostAccess_cases (s : State) (a : Access) :
    (Config.windowSize ≤ a.off ∧ s.hostAccess a = .refused (.outsideWindow a.off)) ∨
    (a.off < Config.windowSize ∧ a.isError = true ∧ s.hostAccess a = .next (s.respond (.accessFault 0))) ∨
    (a.off < Config.windowSize ∧ a.isError = false ∧ a.kind = .read ∧
      s.hostAccess a = .next (s.respond (.data (s.hostRead (winReg a.off)))).drawn) ∨
    (∃ v, a.off < Config.windowSize ∧ a.isError = false ∧ a.kind = .write v ∧
      s.hostAccess a = .next ((s.hostWrite (winReg a.off) v).respond .written)) := by
  unfold State.hostAccess
  by_cases h : a.off ≥ Config.windowSize
  · exact .inl ⟨h, if_pos h⟩
  · have h' : a.off < Config.windowSize := Nat.not_le.mp h
    rw [if_neg h]
    cases he : a.isError
    · cases hk : a.kind with
      | read => exact .inr (.inr (.inl ⟨h', rfl, rfl, by simp⟩))
      | write v => exact .inr (.inr (.inr ⟨v, h', rfl, rfl, by simp⟩))
    · exact .inr (.inl ⟨h', rfl, by simp⟩)

/-! ### Host reads and writes -/

@[simp] theorem unlessBusy_running {s : State} (h : s.engine = .running) (f : State → State) :
    s.unlessBusy f = { s with overrun := true } := by
  simp [State.unlessBusy, State.busy, h]

@[simp] theorem unlessBusy_idle {s : State} (h : s.engine = .idle) (f : State → State) : s.unlessBusy f = f s := by
  simp [State.unlessBusy, State.busy, h]

/-- Everything a host write can do while a command runs: it moves OVERRUN and NSEL at most (10_state.md R41). -/
theorem hostWrite_running {s : State} (h : s.engine = .running) (r : WinReg) (v : Word) :
    ∃ o n, s.hostWrite r v = { s with overrun := o, nsel := n } := by
  unfold State.hostWrite
  cases r <;> simp only [unlessBusy_running h]
  all_goals first
    | exact ⟨_, _, rfl⟩
    | (split <;> exact ⟨_, _, rfl⟩)

/-- What a host write leaves as it was at any time: the number registers, SLO, SHI, MAX_LIMBS and the model's own fields
(10_state.md R46). -/
theorem hostWrite_keeps (s : State) (r : WinReg) (v : Word) :
    (s.hostWrite r v).x = s.x ∧ (s.hostWrite r v).slo = s.slo ∧ (s.hostWrite r v).shi = s.shi ∧
      (s.hostWrite r v).maxLimbs = s.maxLimbs ∧ (s.hostWrite r v).inputs = s.inputs ∧
      (s.hostWrite r v).responses = s.responses ∧ (s.hostWrite r v).draws = s.draws := by
  cases he : s.engine with
  | running =>
    obtain ⟨_, _, h⟩ := hostWrite_running he r v
    rw [h]
    exact ⟨rfl, rfl, rfl, rfl, rfl, rfl, rfl⟩
  | idle =>
    unfold State.hostWrite
    cases r <;> simp only [unlessBusy_idle he, and_self]
    all_goals first
      | exact ⟨rfl, rfl, rfl, rfl, rfl, rfl, rfl⟩
      | (split <;> exact ⟨rfl, rfl, rfl, rfl, rfl, rfl, rfl⟩)

/-- An idle TEXTW[k] write inside the buffer (10_state.md R44). -/
theorem hostWrite_textw {s : State} {k : Nat} (he : s.engine = .idle) (h : 8 * k < s.maxText) (v : Word) :
    s.hostWrite (.textw k) v = { s with text := Memory.writeBytes s.text (8 * k) (bytesOf v) } :=
  (unlessBusy_idle he _).trans (if_pos h)

/-- An idle TEXTW[k] write beyond the buffer (10_state.md R44). -/
theorem hostWrite_textw_beyond {s : State} {k : Nat} (he : s.engine = .idle) (h : s.maxText ≤ 8 * k) (v : Word) :
    s.hostWrite (.textw k) v = s :=
  (unlessBusy_idle he _).trans (if_neg (Nat.not_lt.mpr h))

/-- LIMB[k] beyond MAX_LIMBS reads 0 in every state (10_state.md R43). -/
theorem hostRead_limb_beyond {s : State} {k : Nat} (h : s.maxLimbs ≤ k) : s.hostRead (.limb k) = 0 := by
  simp [State.hostRead, State.readsAnyValue, State.settledRead, Nat.not_lt.mpr h]

/-- A read that is not of a running command's destination (70_reset_and_hazards.md R208). -/
theorem hostRead_settled {s : State} {r : WinReg} (h : s.readsAnyValue r = false) : s.hostRead r = s.settledRead r := by
  simp [State.hostRead, h]

/-- The completion of the running command: a result that fits the decoded command, or ILLEGAL. -/
theorem engineComplete_cases (s : State) :
    (decode s.cmd = none ∧ s.engineComplete = .next (s.raise .illegal)) ∨
    (∃ i r d, decode s.cmd = some i ∧ resultFits i r ∧
      s.engineComplete = .next { s.complete r with draws := d } ∧ s.engineComplete = exec i s) := by
  unfold State.engineComplete
  cases h : decode s.cmd with
  | none => exact .inl ⟨rfl, rfl⟩
  | some i =>
    obtain ⟨r, d, hr, hf⟩ := exec_completes i s
    exact .inr ⟨i, r, d, rfl, hf, hr, rfl⟩

/-- Everything a step that answers a next state can do. -/
theorem step_cases {s t : State} (h : step s = .next t) :
    (s.inputs = [] ∧ s.engine = .idle ∧ t = s) ∨
    (s.inputs = [] ∧ s.engine = .running ∧ s.engineComplete = .next t) ∨
    (∃ rest, s.inputs = .engineTurn :: rest ∧ s.engine = .idle ∧ t = { s with inputs := rest }) ∨
    (∃ rest, s.inputs = .engineTurn :: rest ∧ s.engine = .running ∧
      State.engineComplete { s with inputs := rest } = .next t) ∨
    (∃ rest, s.inputs = .reset :: rest ∧ t = State.platformReset { s with inputs := rest }) ∨
    (∃ a rest, s.inputs = .access a :: rest ∧ a.off < Config.windowSize ∧
      State.hostAccess { s with inputs := rest } a = .next t) := by
  cases hi : s.inputs with
  | nil =>
    cases he : s.engine with
    | idle => rw [step_idle he hi] at h; cases h; exact .inl ⟨rfl, rfl, rfl⟩
    | running => rw [step_running he hi] at h; exact .inr (.inl ⟨rfl, rfl, h⟩)
  | cons e rest =>
    cases e with
    | engineTurn =>
      rw [step_engineTurn hi] at h
      cases he : s.engine with
      | idle =>
        simp only [State.engineTurn, he] at h
        cases h
        exact .inr (.inr (.inl ⟨rest, rfl, rfl, rfl⟩))
      | running =>
        simp only [State.engineTurn, he] at h
        exact .inr (.inr (.inr (.inl ⟨rest, rfl, rfl, h⟩)))
    | reset =>
      rw [step_reset hi] at h
      cases h
      exact .inr (.inr (.inr (.inr (.inl ⟨rest, rfl, rfl⟩))))
    | access a =>
      rw [step_access hi] at h
      refine .inr (.inr (.inr (.inr (.inr ⟨a, rest, rfl, ?_, h⟩))))
      obtain ⟨_, hr⟩ | ⟨hw, _⟩ | ⟨hw, _⟩ | ⟨_, hw, _⟩ := hostAccess_cases { s with inputs := rest } a
      · rw [hr] at h; cases h
      · exact hw
      · exact hw
      · exact hw

/-! ### Runs -/

@[simp] theorem run_zero (s : State) : core.run 0 s = .next s := rfl

/-- One step of a run of any machine, and the rest of it. -/
theorem core_run_next {M : Host.Core} {s t : M.State} (k : Nat) (h : M.step s = .next t) :
    M.run (k + 1) s = M.run k t := by
  simp only [Host.Core.run, h]

/-- One step of a run, and the rest of it. -/
theorem run_next {s t : State} (k : Nat) (h : step s = .next t) : core.run (k + 1) s = core.run k t :=
  core_run_next (M := core) k h

/-! ### The window's map (10_state.md R30) -/

theorem winReg_limb {k : Nat} (h : k < 4096) : winReg (0x8000 + 8 * k) = .limb k := by
  unfold winReg
  rw [if_neg (by omega), if_pos (by omega)]
  congr 1
  omega

theorem winReg_textw (k : Nat) : winReg (0x10000 + 8 * k) = .textw k := by
  unfold winReg
  rw [if_neg (by omega), if_neg (by omega)]
  congr 1
  omega

theorem controlReg_reserved {n : Nat} (h : 14 ≤ n) : controlReg n = .reserved := by
  obtain ⟨m, rfl⟩ := Nat.exists_eq_add_of_le' h
  rfl

theorem winReg_reserved {off : Nat} (h1 : 0x0070 ≤ off) (h2 : off ≤ 0x7FF8) : winReg off = .reserved := by
  unfold winReg
  rw [if_pos (by omega)]
  exact controlReg_reserved (by omega)

/-- The reset state's memory is in canonical form. -/
theorem State.reset_text_wf : Memory.wf State.reset.text = true := rfl

end Sys2Proof.Machine
end

