-- ==== Sys2Proof/Tests/Slice0.lean ====
section
/-!
SUPPORT. Small tests. The expected results are the spec's: 30_encoding.md R89, 95_test_vectors.md, and the examples in
the command rules. Each command test takes one step from a small state.
-/

namespace Sys2Proof.Tests
open Sys2Proof Sys2Proof.Machine

/-- Reset with MAX_LIMBS = 32, the value 95_test_vectors.md uses. -/
def base : State := { State.reset with maxLimbs := 32 }

/-- One value of the next state, if there is one. -/
def after {α : Type} (o : Host.Outcome State Fault Refusal) (f : State → α) : Option α :=
  match o with
  | .next t => some (f t)
  | .fault _ => none
  | .refused _ => none

/-- The state with one host event to come. -/
def facing (s : State) (e : Event) : State := { s with inputs := [e] }

/-- 2^64 − 1, written `max` in 95_test_vectors.md. -/
def top : Word := 0xFFFFFFFFFFFFFFFF#64

/-- Text bytes at TEXT[0], TEXT[1], …, with TEXT_LEN their number. -/
def withText (t : List Byte) (s : State) : State :=
  { s with text := Memory.writeBytes s.text 0 t, textLen := BitVec.ofNat 32 t.length }

/-! ### WellFormed: each check refuses an ill-formed term (30_encoding.md R90) -/

theorem test_wellFormed_add : (Fields.mk 0x10#8 3 0 1 0).WellFormed = true := by decide
theorem test_illFormed_opcode : (Fields.mk 0x03#8 0 0 0 0).WellFormed = false := by decide
theorem test_illFormed_rsv : (Fields.mk 0x10#8 0 0 0 1).WellFormed = false := by decide
theorem test_illFormed_scalar_rd : (Fields.mk 0x01#8 1 0 0 0).WellFormed = false := by decide
theorem test_illFormed_scalar_ra : (Fields.mk 0x02#8 0 1 0 0).WellFormed = false := by decide
theorem test_illFormed_scalar_rb : (Fields.mk 0x02#8 0 0 1 0).WellFormed = false := by decide
theorem test_illFormed_da_rb : (Fields.mk 0x13#8 0 0 1 0).WellFormed = false := by decide
theorem test_illFormed_d_ra : (Fields.mk 0x20#8 0 1 0 0).WellFormed = false := by decide
theorem test_illFormed_d_rb : (Fields.mk 0x20#8 0 0 1 0).WellFormed = false := by decide

/-! ### Decoding: words written out from 30_encoding.md R85 and R88, bit by bit, RSV RB RA RD OP -/

theorem test_decode_adc :
    decode 0b0000000000000000000000000000000000000000000000000000000000000001#64 = some .adc := by decide
theorem test_decode_muladd :
    decode 0b0000000000000000000000000000000000000000000000000000000000000010#64 = some .muladd := by decide
theorem test_decode_add :
    decode 0b0000000000000000000000000000000000000000000000010000001100010000#64 = some (.add 3 0 1) := by decide
theorem test_decode_sub :
    decode 0b0000000000000000000000000000000000000000000000010000001000010001#64 = some (.sub 2 0 1) := by decide
theorem test_decode_mul :
    decode 0b0000000000000000000000000000000000000000000011010111001000010010#64 = some (.mul 2 7 13) := by decide
theorem test_decode_pow :
    decode 0b0000000000000000000000000000000000000000000000000110000100010011#64 = some (.pow 1 6) := by decide
theorem test_decode_parse :
    decode 0b0000000000000000000000000000000000000000000000000000111000100000#64 = some (.parse 14) := by decide

/-- 95_test_vectors.md 2.9. -/
theorem test_decode_illegal :
    [0x0#64, 0x3#64, 0xFF#64, 0x101#64, 0x1002#64, 0x10113#64, 0x1020#64, 0x100010#64, 0x8000000000000010#64].map decode
      = List.replicate 9 none := by decide

/-- The table's word, one step from reset: 95_test_vectors.md 2.10 and 2.9. -/
theorem test_fetchWord_runs_add :
    after (step (State.reset.withFetchWord 64 0x021010)) (fun t => (t.errCode, t.errInfo)) = some (.unwritten, 1) := by
  decide
theorem test_fetchWord_runs_illegal :
    after (step (State.reset.withFetchWord 64 0)) (fun t => (t.errCode, t.errInfo)) = some (.illegal, 0) := by decide

/-! ### ADC and MULADD (95_test_vectors.md 2.1, 2.2) -/

theorem test_adc_largest :
    after (exec .adc { base with sa := top, sb := top, scin := 1 }) (fun t => (t.slo, t.shi)) = some (top, 1) := by decide
theorem test_adc_edge :
    after (exec .adc { base with sa := 0x7FFFFFFFFFFFFFFF, sb := 0x8000000000000000 }) (fun t => (t.slo, t.shi))
      = some (top, 0) := by decide
theorem test_muladd_largest :
    after (exec .muladd { base with sa := top, sb := top, sacc := top }) (fun t => (t.slo, t.shi)) = some (0, top) := by
  decide
theorem test_muladd_mixed :
    after (exec .muladd { base with sa := 0xFEDCBA9876543210, sb := 0x0123456789ABCDEF }) (fun t => (t.slo, t.shi))
      = some (0x2236D88FE5618CF0, 0x0121FA00AD77D742) := by decide

/-! ### ADD, SUB, MUL, POW (95_test_vectors.md 2.5 to 2.8) -/

theorem test_add_carry_ripples_in_place :
    after (exec (.add 0 0 1) ((base.setNum 0 [top, top]).setNum 1 [1])) (fun t => (t.num 0).limbs)
      = some [0, 0, 1] := by decide
theorem test_add_capacity :
    after (exec (.add 2 0 1) ((base.setNum 0 (List.replicate 32 top)).setNum 1 [1]))
      (fun t => (t.errCode, t.errInfo, (t.num 2).valid)) = some (.capacity, 0, false) := by decide +kernel
theorem test_sub_wraps_by_length :
    after (exec (.sub 2 0 1) ((base.setNum 0 [1]).setNum 1 [0, 1])) (fun t => (t.num 2).limbs)
      = some [1, top] := by decide
theorem test_sub_keeps_high_zero :
    after (exec (.sub 2 0 1) ((base.setNum 0 [0, 0, 1]).setNum 1 [1])) (fun t => (t.num 2).limbs)
      = some [top, top, 0] := by decide
theorem test_mul_boundary_carry :
    after (exec (.mul 0 0 0) (base.setNum 0 [top, top])) (fun t => (t.num 0).limbs)
      = some [1, 0, 0xFFFFFFFFFFFFFFFE, top] := by decide
theorem test_mul_empty_operand :
    after (exec (.mul 2 0 1) ((base.setNum 0 [5]).setNum 1 [])) (fun t => (t.num 2).limbs) = some [0] := by decide
theorem test_pow_square :
    after (exec (.pow 1 0) { base.setNum 0 [1, 1] with exp := 2 }) (fun t => (t.num 1).limbs)
      = some [1, 2, 1, 0, 0] := by decide
theorem test_pow_capacity_is_exact :
    after (exec (.pow 1 0) { base.setNum 0 [1] with exp := top }) (fun t => (t.errCode, (t.num 1).valid))
      = some (.capacity, false) := by decide

/-! ### PARSE and FormatHex (95_test_vectors.md 2.3, 2.4) -/

/-- "123456789ABCDEF0123". -/
theorem test_parse_two_groups :
    after (exec (.parse 0) (withText [0x31, 0x32, 0x33, 0x34, 0x35, 0x36, 0x37, 0x38, 0x39, 0x41, 0x42, 0x43, 0x44, 0x45,
      0x46, 0x30, 0x31, 0x32, 0x33] base)) (fun t => (t.num 0).limbs) = some [0x456789ABCDEF0123, 0x123] := by decide
/-- "1G1G": the least index is reported and the destination stays unwritten. -/
theorem test_parse_least_index :
    after (exec (.parse 0) (withText [0x31, 0x47, 0x31, 0x47] base)) (fun t => (t.errCode, t.errInfo, (t.num 0).valid))
      = some (.parse, 1, false) := by decide
theorem test_formatHex : formatHex [1, 0xF] = [0x46, 0x30, 0x30, 0x30, 0x30, 0x30, 0x30, 0x30, 0x30, 0x30, 0x30, 0x30,
    0x30, 0x30, 0x30, 0x30, 0x31] := by decide
theorem test_formatHex_zero : formatHex [0, 0] = [] := by decide

/-! ### The window (95_test_vectors.md 2.11) -/

/-- R PARAM with MAX_LIMBS = 32. -/
theorem test_read_param :
    after (step (facing base (hostR .param))) (fun t => t.responses) = some [.data 0x0000004040100020] := by decide
/-- STATUS after a CMD write, before completion, and after UNWRITTEN with ERRINFO 1 (95_test_vectors.md P5). -/
theorem test_status_words :
    (base.accept 0x10310).status = 0x1 ∧ (base.raise (.unwritten 1)).status = 0x0000000100000202 := by decide
/-- "1F" is packed as 0x4631 (20_memory.md R62). -/
theorem test_textw_packing :
    after (step (facing base (hostW (.textw 0) 0x4631))) (fun t => (t.textByte 0, t.textByte 1)) = some (0x31, 0x46) := by
  decide
/-- A busy write to TEXTW[64], beyond MAX_TEXT = 512, is dropped and sets OVERRUN; an idle one does not (10_state.md R41, R44). -/
theorem test_text_write_beyond :
    after (step (facing (base.accept 1) (hostW (.textw 64) 0))) (fun t => t.overrun) = some true ∧
      after (step (facing base (hostW (.textw 64) 0))) (fun t => t.overrun) = some false := by decide
/-- LIMB[32] of a running command's destination reads 0 when MAX_LIMBS = 32 (10_state.md R43). -/
theorem test_limb_beyond_reads_zero :
    after (step (facing (base.accept 0x20) (hostR (.limb 32)))) (fun t => t.responses) = some [.data 0] := by decide
/-- The first and last digit of each range, and the '+' of 41_parse.md R120 (41_parse.md R116). -/
theorem test_hexval : [0x30#8, 0x39, 0x41, 0x46, 0x61, 0x66, 0x2B].map hexval =
    [some 0, some 9, some 10, some 15, some 10, some 15, none] := by decide
theorem test_ninfo_three_limbs :
    after (step (facing (base.setNum 0 [7, 8, 9]) (hostR .ninfo))) (fun t => t.responses)
      = some [.data 0x0000000100000003] := by decide
theorem test_narrow_read_is_error :
    after (step (facing base (.access ⟨.read, 4, 0⟩))) (fun t => t.responses) = some [.accessFault 0] := by decide

/-! ### The assembler (30_encoding.md R94, R89) -/

/-- "add n3, n0, n15". -/
theorem test_assemble_add :
    assemble ['a', 'd', 'd', ' ', 'n', '3', ',', ' ', 'n', '0', ',', ' ', 'n', '1', '5'] = some 0xF0310 := by decide
/-- "POW n16, n0": a register index outside 0..15 is refused. -/
theorem test_assemble_refuses_n16 :
    assemble ['P', 'O', 'W', ' ', 'n', '1', '6', ',', ' ', 'n', '0'] = none := by decide

end Sys2Proof.Tests
end

