-- ==== Sys2Proof/Tests/Witnesses.lean ====
section
/-!
SUPPORT. For every obligation with hypotheses, concrete states and operands that meet all of them together, one for each
clause, at the edge of the clause's range where it has one.
-/

namespace Sys2Proof.Tests
open Sys2Proof Sys2Proof.Machine

/-- The base state with a command accepted and not yet complete. -/
def running (w : Word) : State := base.accept w

/-- n0 = [5], n1 = [max, 1], the others unwritten. -/
def twoNumbers : State := (base.setNum 0 [5]).setNum 1 [top, 1]

/-- A write and a read access at an offset. -/
def wr (off : Nat) : Event := .access ⟨.write 0x7#64, 8, off⟩
def rd (off : Nat) : Event := .access ⟨.read, 8, off⟩

/-! ### Encoding -/

theorem witness_ExampleWordsEncodeAndDecode :
    (Instr.parse 2, 0x0000000000000220#64) ∈ [(Instr.add 3 0 1, 0x0000000000010310#64), (.parse 2, 0x220#64)] := by decide
theorem witness_EncodeOfDecodeIsIdentity : decode 0xFFF10#64 = some (.add 15 15 15) := by decide
theorem witness_DecodeAgreesWithMatchAndMask :
    decode 0x00F13#64 = some (.pow 15 0) ∧ 0xFFF13#64 &&& rowMask (.pow 0 0) ≠ rowMatch (.pow 0 0) ∧
      0x0FF13#64 &&& rowMask (.pow 0 0) = rowMatch (.pow 0 0) := by decide
theorem witness_AssembledCommandsAreLegal :
    (['a', 'd', 'c'].takeWhile fun c => c != ' ') ≠ ['.', 'w', 'o', 'r', 'd', '6', '4'] ∧
      assemble ['a', 'd', 'c'] = some 0x1 := by decide

/-! ### The step -/

theorem witness_StepRunsTheDecodedCommand :
    ((running 0x1).engine = .running ∧ (running 0x1).inputs = [] ∧ decode (running 0x1).cmd = some .adc) ∧
      (facing (running 0xF20) .engineTurn).inputs = .engineTurn :: [] ∧
      (facing (running 0xF20) .engineTurn).engine = .running ∧
      decode (facing (running 0xF20) .engineTurn).cmd = some (.parse 15) := by decide
theorem witness_IllegalWordCompletesWithIllegal :
    (running 0x101).engine = .running ∧ (running 0x101).inputs = [] ∧ decode (running 0x101).cmd = none ∧
      (facing (running 0x101) .engineTurn).inputs = .engineTurn :: [] := by decide
theorem witness_ErrorsWriteNothing : ∃ t, exec (.add 0 1 2) base = .next t ∧ t.errCode ≠ .none :=
  ⟨_, rfl, by decide⟩
theorem witness_CmdWriteIsAccepted :
    (facing base (wr 0x10)).engine = .idle ∧ (facing base (wr 0x10)).inputs = .access ⟨.write 7, 8, 0x10⟩ :: [] := by
  decide

/-- A running state whose host polls once, writes NSEL, tries a CMD write and makes a bad access before the engine's
turn; every byte of its text is written. -/
def polled : State :=
  { withText [0x31, 0x46] (running 0x20) with
    inputs := [rd 0x18, wr 0x60, wr 0x10, .access ⟨.read, 4, 0x1FFFF⟩, .engineTurn] }

/-- The accesses `polled` faces. -/
def polledAccesses : List Access :=
  [⟨.read, 8, 0x18⟩, ⟨.write 7, 8, 0x60⟩, ⟨.write 7, 8, 0x10⟩, ⟨.read, 4, 0x1FFFF⟩]

theorem witness_PollLoopEndsAtTheEnginesTurn :
    polled.engine = .running ∧ polled.inputs = polledAccesses.map .access ++ .engineTurn :: [] ∧
      (∀ a ∈ polledAccesses, a.off < Config.windowSize) := by decide
theorem witness_HostCannotDisturbARunningCommand :
    polled.engine = .running ∧ polled.inputs = polledAccesses.map .access ++ .engineTurn :: [] ∧
      (∀ a ∈ polledAccesses, a.off < Config.windowSize) ∧ decode polled.cmd = some (.parse 0) ∧
      polled.textLen.toNat = 2 ∧ 2 ≤ polled.maxText ∧ (∀ k, k < 2 → (Memory.read polled.text k).isSome) := by decide
/-- No text written and TEXT_LEN not 0: an ADC, an illegal word, and a PARSE whose TEXT_LEN exceeds MAX_TEXT. -/
theorem witness_HostCannotDisturbARunningCommand_unwritten :
    (∀ rd, decode (running 0x1).cmd ≠ some (.parse rd)) ∧ (∀ rd, decode (running 0x120).cmd = some (.parse rd) → rd = 1) ∧
      decode (running 0x10020).cmd = none ∧ { running 0x20 with textLen := 513 }.maxText < (513#32).toNat ∧
      Memory.read (running 0x1).text 0 = none := by decide

/-! ### Invariants -/

/-- A state that is not the reset state and meets the invariant: two numbers, a text at the buffer's end, BUSY = 1. -/
def busyState : State :=
  { twoNumbers.accept 0x10210 with text := Memory.writeBytes [] 504 [1, 2, 3, 4, 5, 6, 7, 8] }

theorem busyState_inv : busyState.Inv where
  maxLimbs_ge := by decide
  maxLimbs_le := by decide
  num_ok := by simp only [NumReg.Ok]; decide
  text_wf := by decide
  text_below := by decide
  errInfo_ok := rfl
  busy_clear := fun _ => ⟨rfl, rfl⟩

theorem witness_EveryStepKeepsTheInvariant : busyState.Inv ∧ ∃ t, step busyState = .next t :=
  ⟨busyState_inv, _, rfl⟩
theorem witness_OnlyResetClearsValid :
    (∃ t, step busyState = .next t) ∧ (∀ rest, busyState.inputs ≠ .reset :: rest) ∧ (busyState.num 1).valid = true :=
  ⟨⟨_, rfl⟩, by simp [busyState, State.accept, twoNumbers, State.setNum, base, State.reset], rfl⟩
theorem witness_OnlyTheNamedDestinationChanges : ∃ t, step busyState = .next t ∧ t.num 2 ≠ busyState.num 2 :=
  ⟨_, rfl, by decide⟩
theorem witness_OnlyTheNamedDestinationChanges_reset :
    ∃ t, step (facing busyState .reset) = .next t ∧ t.num 1 ≠ busyState.num 1 := ⟨_, rfl, by decide⟩
theorem witness_OverrunStaysUntilCleared_write :
    ∃ t, step (facing { base with overrun := true } (wr 0x18)) = .next t ∧ t.overrun = false := ⟨_, rfl, by decide⟩
theorem witness_OverrunStaysUntilCleared_reset :
    ∃ t, step (facing { base with overrun := true } .reset) = .next t ∧ t.overrun = false := ⟨_, rfl, by decide⟩
theorem witness_AccessFaultsAreNeverCleared :
    ∃ t, step (facing { base with responses := [.accessFault 0] } .reset) = .next t ∧
      State.noAccessFault { base with responses := [.accessFault 0] } = false := ⟨_, rfl, by decide⟩

/-! ### Commands -/

theorem witness_AddWritesTheSumOrReportsCapacity_fits :
    (twoNumbers.num 0).valid = true ∧ (twoNumbers.num 1).valid = true ∧
      (add (twoNumbers.num 0).limbs (twoNumbers.num 1).limbs).length ≤ twoNumbers.maxLimbs := by decide

/-- n0 and n1 of 32 limbs, all of them max. -/
def fullNumbers : State := (base.setNum 0 (List.replicate 32 top)).setNum 1 (List.replicate 32 top)

theorem witness_AddWritesTheSumOrReportsCapacity_capacity :
    (fullNumbers.num 0).valid = true ∧ (fullNumbers.num 1).valid = true ∧
      fullNumbers.maxLimbs < (add (fullNumbers.num 0).limbs (fullNumbers.num 1).limbs).length := by decide +kernel
theorem witness_AddLengthIsExact :
    val [top] + val [0] < 2 ^ (64 * max 1 1) ∧ ¬ val [top] + val [1] < 2 ^ (64 * max 1 1) := by decide
theorem witness_SubWrapsAround :
    val [1] < val [2] ∧ val [2] ≤ val [2] ∧ max ([] : List Limb).length ([] : List Limb).length = 0 := by decide
theorem witness_SubWritesTheDifference : (twoNumbers.num 0).valid = true ∧ (twoNumbers.num 1).valid = true := by decide
theorem witness_MulIsTheExactProduct :
    [15, 0].length = ([5] : List Limb).length + ([3] : List Limb).length ∧ val [15, 0] = val [5] * val [3] := by decide
theorem witness_MulCommutesAndAssociates : ∃ one, parse [0x31#8] = .ok one := ⟨_, rfl⟩

/-- n0 of 16 limbs and n1 of `n`. -/
def lengths (n : Nat) : State := (base.setNum 0 (List.replicate 16 0)).setNum 1 (List.replicate n 0)

theorem witness_MulWritesTheProductOrReportsCapacity_fits :
    ((lengths 16).num 0).valid = true ∧ ((lengths 16).num 1).valid = true ∧
      ((lengths 16).num 0).len + ((lengths 16).num 1).len = (lengths 16).maxLimbs := by decide
theorem witness_MulWritesTheProductOrReportsCapacity_capacity :
    ((lengths 17).num 0).valid = true ∧ ((lengths 17).num 1).valid = true ∧
      (lengths 17).maxLimbs < ((lengths 17).num 0).len + ((lengths 17).num 1).len := by decide
theorem witness_PowMeetsItsRecurrence : (1 : Word) ≠ 0 ∧ top ≠ 0 := by decide
theorem witness_PowWritesThePowerOrReportsCapacity_fits :
    (twoNumbers.num 0).valid = true ∧
      1 + (twoNumbers.num 0).len * (31#64).toNat = { twoNumbers with exp := 31 }.maxLimbs := by decide
theorem witness_PowWritesThePowerOrReportsCapacity_capacity :
    (twoNumbers.num 0).valid = true ∧
      { twoNumbers with exp := 32 }.maxLimbs < 1 + (twoNumbers.num 0).len * (32#64).toNat := by decide
theorem witness_UnwrittenSourcesAreReported :
    (twoNumbers.num 15).valid = false ∧ ((twoNumbers.num 0).valid = true ∧ (twoNumbers.num 2).valid = false) ∧
      (∃ t, exec (.parse 0) twoNumbers = .next t) ∧ (∃ t, exec .adc twoNumbers = .next t) ∧
      (∃ t, exec .muladd twoNumbers = .next t) :=
  ⟨rfl, ⟨rfl, rfl⟩, ⟨_, rfl⟩, ⟨_, rfl⟩, ⟨_, rfl⟩⟩

/-! ### PARSE and FormatHex -/

theorem witness_ParseSpellsTheNumber : ∀ c ∈ [0x31#8, 0x66#8], (hexval c).isSome := by decide
theorem witness_ParseSpellsTheNumber_bad :
    (∀ d ∈ [0x31#8, 0x66#8], (hexval d).isSome) ∧ ∀ c ∈ [0x2F#8, 0x3A#8, 0x40#8, 0x47#8, 0x60#8, 0x67#8, 0xFF#8, 0x2B#8],
      hexval c = none := by decide
/-- The bytes where the ranges of hex digits begin and end. -/
theorem witness_ParseSpellsTheNumber_ranges :
    0x30 ≤ (0x30#8).toNat ∧ (0x39#8).toNat ≤ 0x39 ∧ 0x41 ≤ (0x41#8).toNat ∧ (0x46#8).toNat ≤ 0x46 ∧
      0x61 ≤ (0x61#8).toNat ∧ (0x66#8).toNat ≤ 0x66 ∧ (0x2F#8).toNat < 0x30 ∧ 0x66 < (0x67#8).toNat := by decide
/-- No byte written, TEXT_LEN at the buffer's size. -/
theorem witness_ParseRunsWhateverIsWritten :
    { base with textLen := 512 }.textLen.toNat = { base with textLen := 512 }.maxText ∧ Memory.read base.text 0 = none := by
  decide
theorem witness_ParseWritesTheNumber :
    [0x31#8, 0x66#8].length = (withText [0x31, 0x66] base).textLen.toNat ∧
      [0x31#8, 0x66#8].length ≤ (withText [0x31, 0x66] base).maxText ∧
      (∀ k, ∀ h : k < [0x31#8, 0x66#8].length,
        Memory.read (withText [0x31, 0x66] base).text k = some [0x31#8, 0x66#8][k]) ∧
      (∀ c ∈ [0x31#8, 0x66#8], (hexval c).isSome) := by decide
theorem witness_ParseRaisesParseError :
    [0x31#8, 0x47#8].length = (withText [0x31, 0x47] base).textLen.toNat ∧
      [0x31#8, 0x47#8].length ≤ (withText [0x31, 0x47] base).maxText ∧
      (∀ k, ∀ h : k < [0x31#8, 0x47#8].length,
        Memory.read (withText [0x31, 0x47] base).text k = some [0x31#8, 0x47#8][k]) ∧
      hexval [0x31#8, 0x47#8][1] = none ∧ (hexval [0x31#8, 0x47#8][0]).isSome := by decide
theorem witness_ParseChecksCapacityFirst :
    { base with textLen := 513 }.maxText < { base with textLen := 513 }.textLen.toNat ∧
      { base with textLen := 512 }.textLen.toNat = { base with textLen := 512 }.maxText ∧
      (∃ t, exec (.parse 0) { base with textLen := 512 } = .next t) := ⟨by decide, by decide, _, rfl⟩
theorem witness_FormatOfParseIsIdentity :
    [0x46#8] ≠ [] ∧ [0x46#8].head? ≠ some 0x30#8 ∧
      (∀ c ∈ [0x46#8], (0x30 ≤ c.toNat ∧ c.toNat ≤ 0x39) ∨ (0x41 ≤ c.toNat ∧ c.toNat ≤ 0x46)) ∧
      val [7] = val [7, 0] := by decide

/-! ### The host's accesses -/

theorem witness_BusyWritesAreDropped_register :
    (facing (running 1) (wr 0x58)).engine = .running ∧
      (facing (running 1) (wr 0x58)).inputs = .access ⟨.write 7, 8, 0x58⟩ :: [] ∧
      0x58 ∈ [0x0010, 0x0020, 0x0028, 0x0030, 0x0038, 0x0050, 0x0058] := by decide
/-- k = 63 is the last TEXTW word of the buffer when MAX_LIMBS = 32; k = 8191 is the last of the window. -/
theorem witness_BusyWritesAreDropped_text :
    (facing (running 1) (wr 0x101F8)).engine = .running ∧
      (facing (running 1) (wr 0x101F8)).inputs = .access ⟨.write 7, 8, 0x101F8⟩ :: [] ∧
      63 < 8192 ∧ 0x101F8 = 0x10000 + 8 * 63 ∧ 8191 < 8192 ∧
      (facing (running 1) (wr 0x1FFF8)).inputs = .access ⟨.write 7, 8, 0x10000 + 8 * 8191⟩ :: [] := by decide
/-- Whatever the offset, an idle state can face the write. -/
theorem witness_IdleOperandWritesAreStored (off : Nat) :
    (facing base (wr off)).engine = .idle ∧ (facing base (wr off)).inputs = .access ⟨.write 7, 8, off⟩ :: [] := ⟨rfl, rfl⟩
theorem witness_StatusAndSelectorWritesAreHonoured :
    (facing base (wr 0x18)).inputs = .access ⟨.write 7, 8, 0x18⟩ :: [] ∧
      (facing (running 1) (wr 0x60)).inputs = .access ⟨.write 7, 8, 0x60⟩ :: [] := ⟨rfl, rfl⟩
theorem witness_ReadOnlyAndReservedOffsetsAreInert (off : Nat) :
    (facing base (wr off)).inputs = .access ⟨.write 7, 8, off⟩ :: [] ∧
      (facing base (rd off)).inputs = .access ⟨.read, 8, off⟩ :: [] ∧
      0x68 ∈ [0x0000, 0x0008, 0x0040, 0x0048, 0x0068] ∧ 4095 < 4096 ∧ (0x7FF8 ≤ 0x7FF8 ∧ 0x7FF8 % 8 = 0) :=
  ⟨rfl, rfl, by decide, by decide, by decide⟩
/-- Values that differ only in a bit the register ignores. -/
theorem witness_ReadOnlyAndReservedOffsetsAreInert_bits :
    (0x5#64).getLsbD 2 = (0x4#64).getLsbD 2 ∧ (0x3#64).getLsbD 0 = (0x1#64).getLsbD 0 ∧
      (0x100000007#64).toNat % 2 ^ 32 = (0x7#64).toNat % 2 ^ 32 ∧ (0x1F#64).toNat % 16 = (0xF#64).toNat % 16 := by decide
theorem witness_RegistersReadTheirCurrentValues (off : Nat) :
    (facing base (rd off)).inputs = .access ⟨.read, 8, off⟩ :: [] ∧
      ((facing base (rd off)).engine = .running → (facing base (rd off)).cmd.toNat % 256 ∉ [0x01, 0x02]) ∧
      (facing base (rd off)).maxLimbs ≤ 4096 := ⟨rfl, by simp [facing, base, State.reset], by simp [facing, base]⟩
/-- SLO and SHI while a PARSE runs. -/
theorem witness_RegistersReadTheirCurrentValues_running :
    (running 0x20).engine = .running ∧ (running 0x20).cmd.toNat % 256 ∉ [0x01, 0x02] ∧
      (facing (running 0x20) (rd 0x48)).inputs = .access ⟨.read, 8, 0x48⟩ :: [] := by decide
/-- NSEL = 1 names [max, 1] while ADD n2 runs: limbs 0 and 1 are inside, 2 is past LEN, and n5 is unwritten. -/
theorem witness_NumberWindowShowsTheSelectedRegister (k : Nat) :
    (facing { busyState with nsel := 1 } (rd (0x8000 + 8 * k))).inputs = .access ⟨.read, 8, 0x8000 + 8 * k⟩ :: [] ∧
      busyState.engine = .running ∧ ({ busyState with nsel := 1 }.nsel : Reg).val ≠ busyState.cmd.toNat / 256 % 16 ∧
      (busyState.num 1).valid = true ∧ 1 < (busyState.num 1).len ∧ (busyState.num 1).len ≤ 2 ∧
      (busyState.num 5).valid = false :=
  ⟨rfl, rfl, by decide, by decide, by decide, by decide, by decide⟩
/-- k = 32 is the first LIMB[k] beyond MAX_LIMBS, here of a running destination too; 4095 is the last of the window. -/
theorem witness_NumberWindowShowsTheSelectedRegister_beyond :
    32 < 4096 ∧ busyState.maxLimbs ≤ 32 ∧ 4095 < 4096 ∧
      (facing { busyState with nsel := 2 } (rd 0x8100)).inputs = .access ⟨.read, 8, 0x8000 + 8 * 32⟩ :: [] := by decide
theorem witness_NumberWindowShowsTheSelectedRegister_inv (e : Event) :
    (facing { busyState with nsel := 1 } e).Inv :=
  ⟨busyState_inv.maxLimbs_ge, busyState_inv.maxLimbs_le, busyState_inv.num_ok, busyState_inv.text_wf,
    busyState_inv.text_below, rfl, fun _ => ⟨rfl, rfl⟩⟩
theorem witness_PendingDestinationReadsAnyValue :
    (facing (running 0x2) (rd 0x48)).engine = .running ∧
      (facing (running 0x2) (rd 0x48)).inputs = .access ⟨.read, 8, 0x48⟩ :: [] ∧
      (running 0x2).cmd.toNat % 256 ∈ [0x01, 0x02] ∧ 0x48 ∈ [0x0040, 0x0048] := by decide
/-- The running PARSE n15 and NSEL = 15: NINFO and the last LIMB[k] below MAX_LIMBS. -/
theorem witness_PendingDestinationReadsAnyValue_number :
    { running 0xF20 with nsel := 15 }.engine = .running ∧ (running 0xF20).cmd.toNat % 256 ∈ [0x10, 0x11, 0x12, 0x13, 0x20] ∧
      { running 0xF20 with nsel := 15 }.nsel.val = (running 0xF20).cmd.toNat / 256 % 16 ∧ 31 < 4096 ∧
      31 < (running 0xF20).maxLimbs := by decide
/-- The last TEXTW word of the buffer, whatever comes next. -/
theorem witness_TextWriteSetsEightBytes (rest : List Event) :
    { base with inputs := wr 0x101F8 :: rest }.inputs = .access ⟨.write 7, 8, 0x10000 + 8 * 63⟩ :: rest ∧
      base.engine = .idle ∧ 63 < 8192 ∧ 8 * 63 < base.maxText := ⟨rfl, rfl, by decide, by decide⟩
/-- A read of it while a command runs, every byte written. -/
theorem witness_TextWriteSetsEightBytes_read :
    (facing busyState (rd 0x101F8)).inputs = .access ⟨.read, 8, 0x10000 + 8 * 63⟩ :: [] ∧ busyState.engine = .running ∧
      8 * 63 < busyState.maxText ∧ ∀ m, m < 8 → (Memory.read busyState.text (8 * 63 + m)).isSome := by decide
theorem witness_TextBeyondTheBufferIsInert :
    64 < 8192 ∧ base.maxText ≤ 8 * 64 ∧ 8191 < 8192 ∧
      (facing base (rd 0x10200)).inputs = .access ⟨.read, 8, 0x10000 + 8 * 64⟩ :: [] ∧
      (facing base (wr 0x1FFF8)).inputs = .access ⟨.write 7, 8, 0x10000 + 8 * 8191⟩ :: [] ∧ base.engine = .idle := by
  decide
theorem witness_AccessErrorsChangeNothing :
    (facing base (.access ⟨.read, 4, 0x1FFF8⟩)).inputs = .access ⟨.read, 4, 0x1FFF8⟩ :: [] ∧ 0x1FFF8 < 0x20000 ∧ 4 ≠ 8 ∧
      (facing base (rd 0x1FFFF)).inputs = .access ⟨.read, 8, 0x1FFFF⟩ :: [] ∧ 0x1FFFF % 8 ≠ 0 := by decide
theorem witness_AccessesOutsideTheWindowAreRefused :
    (facing base (rd 0x20000)).inputs = .access ⟨.read, 8, 0x20000⟩ :: [] ∧ 0x20000 ≤ 0x20000 := by decide
theorem witness_ReadsHaveNoSideEffect :
    (facing base (rd 0x1FFF8)).inputs = .access ⟨.read, 8, 0x1FFF8⟩ :: [] ∧ 0x1FFF8 < 0x20000 ∧ 0x1FFF8 % 8 = 0 := by
  decide
theorem witness_ResetAbandonsTheCommand : (facing busyState .reset).inputs = .reset :: [] := rfl

end Sys2Proof.Tests
end

section
/-!
PROOFS. The lengths of what the commands compute, as the rules of 42_add_sub.md, 43_mul.md, 44_pow.md and 41_parse.md
give them, and the place of the byte PARSE reports.
-/

namespace Sys2Proof.Machine

@[simp] theorem padded_length (n : Nat) (limbs : List Limb) : (padded n limbs).length = n := by
  simp [padded]

/-- The chain has one limb per position that both sequences have. -/
@[simp] theorem adcChain_length (as bs : List Limb) (c : BitVec 1) :
    (adcChain as bs c).1.length = min as.length bs.length := by
  induction as generalizing bs c with
  | nil => simp [adcChain]
  | cons a as ih =>
    cases bs with
    | nil => simp [adcChain]
    | cons b bs => simp only [adcChain, List.length_cons, ih]; omega

@[simp] theorem sub_length (a b : List Limb) : (sub a b).length = max a.length b.length := by
  simp [sub]

@[simp] theorem mulInner_length (a : Limb) (bs cs : List Limb) (mc : Limb) (ac : BitVec 1) :
    (mulInner a bs cs mc ac).length = cs.length := by
  induction cs generalizing bs mc ac with
  | nil => cases bs <;> rfl
  | cons c cs ih =>
    cases bs with
    | nil => rfl
    | cons b bs => simp only [mulInner, List.length_cons, ih]

@[simp] theorem mulOuter_length (as b c : List Limb) : (mulOuter as b c).length = c.length := by
  induction as generalizing c with
  | nil => rfl
  | cons a as ih =>
    have hinner : (mulInner a b c 0 0).length = c.length := mulInner_length a b c 0 0
    unfold mulOuter
    cases hc : mulInner a b c 0 0 with
    | nil => rw [← hinner, hc]
    | cons low rest => rw [← hinner, hc, List.length_cons, List.length_cons, ih]

/-- `len(mul(A, B)) = len(A) + len(B)` (43_mul.md R151). -/
@[simp] theorem mul_length (a b : List Limb) : (mul a b).length = a.length + b.length := by
  simp [mul]

/-- A round that takes bit 0 of `e` and shifts it out leaves `len(result) + len(base) · e` as it was. -/
theorem powLoop_length (n : Nat) (result base : List Limb) (e : Word) (h : e.toNat < 2 ^ n) :
    (powLoop n result base e).length = result.length + base.length * e.toNat := by
  induction n generalizing result base e with
  | zero =>
    have he : e.toNat = 0 := by omega
    simp [powLoop, he]
  | succ n ih =>
    have hshift : (e >>> 1).toNat = e.toNat / 2 := by simp [Nat.shiftRight_eq_div_pow]
    have hround : (if e.getLsbD 0 then mul result base else result).length =
        result.length + base.length * (e.toNat % 2) := by
      rcases Nat.mod_two_eq_zero_or_one e.toNat with hbit | hbit <;>
        simp [BitVec.getLsbD, Nat.testBit_zero, hbit]
    have hsplit : base.length * e.toNat =
        base.length * (e.toNat % 2) + (base.length + base.length) * (e.toNat / 2) := by
      calc base.length * e.toNat = base.length * (e.toNat % 2 + 2 * (e.toNat / 2)) := by rw [Nat.mod_add_div]
        _ = _ := by ring
    simp only [powLoop]
    split
    case isTrue hzero =>
      have hhalf : e.toNat / 2 = 0 := by rw [← hshift, hzero]; rfl
      rw [hround, hsplit, hhalf]
      rfl
    case isFalse =>
      rw [ih _ _ _ (by omega), hround, hshift, mul_length, hsplit, Nat.add_assoc]

/-- `len(pow(Base, e)) = 1 + len(Base) · e`, what the capacity check of 44_pow.md R167 is about. -/
@[simp] theorem pow_length (base : List Limb) (e : Word) : (pow base e).length = 1 + base.length * e.toNat :=
  powLoop_length 64 [1] base e e.isLt

@[simp] theorem State.textOf_length (s : State) (t : Nat) : (s.textOf t).length = t := by
  simp [State.textOf]

@[simp] theorem limbsOfText_length (t : List Byte) : (limbsOfText t).length = (t.length + 15) / 16 := by
  simp [limbsOfText, groupCount]

@[simp] theorem bytesOf_length (v : Word) : (bytesOf v).length = 8 := by
  simp [bytesOf]

/-- The reported byte is one of the text's. -/
theorem firstBad_lt {i k : Nat} {t : List Byte} (h : firstBad i t = some k) : k < i + t.length := by
  induction t generalizing i with
  | nil => cases h
  | cons c cs ih =>
    rw [List.length_cons]
    unfold firstBad at h
    split at h
    · cases h; omega
    · have := ih h; omega

end Sys2Proof.Machine
end

section
/-!
PROOFS. Every command's rule ends with a result the block can hold: a number within MAX_LIMBS, or a PARSE error whose
index lies inside the buffer.
-/

namespace Sys2Proof.Machine

/-- What a result must meet so that its completion keeps the limits of 10_state.md R21 and 60_exceptions.md R182: a
number within MAX_LIMBS, an index inside the text buffer. -/
def CmdResult.WithinLimits (s : State) : CmdResult → Prop
  | .number _ n => n.length ≤ s.maxLimbs
  | .scalars _ _ => True
  | .error (.parse k) => k < s.maxText
  | .error .illegal | .error (.unwritten _) | .error .capacity => True

theorem addRule_withinLimits (rd ra rb : Reg) (s : State) : (addRule rd ra rb s).WithinLimits s := by
  obtain ⟨_, h⟩ | ⟨_, _, h⟩ | ⟨_, _, _, h⟩ | ⟨_, _, hlen, h⟩ := addRule_cases rd ra rb s <;> rw [h]
  · trivial
  · trivial
  · trivial
  · exact hlen

/-- SUB needs no capacity check: its result is no longer than its sources (42_add_sub.md R143). -/
theorem subRule_withinLimits {s : State} (hs : s.Inv) (rd ra rb : Reg) : (subRule rd ra rb s).WithinLimits s := by
  obtain ⟨_, h⟩ | ⟨_, _, h⟩ | ⟨_, _, h⟩ := subRule_cases rd ra rb s <;> rw [h]
  · trivial
  · trivial
  · have hmax : max (s.num ra).len (s.num rb).len ≤ s.maxLimbs := max_le (hs.num_ok ra).1 (hs.num_ok rb).1
    exact (sub_length _ _).trans_le hmax

theorem mulRule_withinLimits (rd ra rb : Reg) (s : State) : (mulRule rd ra rb s).WithinLimits s := by
  obtain ⟨_, h⟩ | ⟨_, _, h⟩ | ⟨_, _, _, h⟩ | ⟨_, _, hlen, h⟩ := mulRule_cases rd ra rb s <;> rw [h]
  · trivial
  · trivial
  · trivial
  · exact (mul_length _ _).trans_le hlen

theorem powRule_withinLimits (rd ra : Reg) (s : State) : (powRule rd ra s).WithinLimits s := by
  obtain ⟨_, h⟩ | ⟨_, _, h⟩ | ⟨_, hlen, h⟩ := powRule_cases rd ra s <;> rw [h]
  · trivial
  · trivial
  · exact (pow_length _ _).trans_le hlen

/-- A text inside the buffer of 16 · MAX_LIMBS bytes makes at most MAX_LIMBS groups of 16. -/
theorem parseRule_withinLimits (rd : Reg) (s : State) : (parseRule rd s).WithinLimits s := by
  obtain ⟨_, h⟩ | ⟨htext, k, hbad, h⟩ | ⟨htext, _, h⟩ := parseRule_cases rd s <;> rw [h]
  · trivial
  · have hk : k < 0 + (s.textOf s.textLen.toNat).length := firstBad_lt hbad
    rw [State.textOf_length] at hk
    show k < s.maxText
    omega
  · show (limbsOfText _).length ≤ s.maxLimbs
    rw [State.maxText] at htext
    rw [limbsOfText_length, State.textOf_length]
    omega

end Sys2Proof.Machine
end

section
/-!
PROOFS. The invariant under each operation of the block: completion, host writes, accesses, reset, and the step.
-/

namespace Sys2Proof.Machine

/-- The invariant speaks of seven fields only. -/
theorem State.Inv.of_fields_eq {s t : State} (hs : s.Inv) (hmax : t.maxLimbs = s.maxLimbs := by rfl)
    (hx : t.x = s.x := by rfl) (htext : t.text = s.text := by rfl) (hcode : t.errCode = s.errCode := by rfl)
    (hinfo : t.errInfo = s.errInfo := by rfl) (hengine : t.engine = s.engine := by rfl)
    (hdone : t.done = s.done := by rfl) : t.Inv where
  maxLimbs_ge := hmax ▸ hs.maxLimbs_ge
  maxLimbs_le := hmax ▸ hs.maxLimbs_le
  num_ok r := by simpa only [State.num, hmax, hx] using hs.num_ok r
  text_wf := htext ▸ hs.text_wf
  text_below := by simpa only [State.maxText, hmax, htext] using hs.text_below
  errInfo_ok := by simpa only [State.ErrInfoOk, State.maxText, hmax, hcode, hinfo] using hs.errInfo_ok
  busy_clear := by simpa only [hengine, hdone, hcode] using hs.busy_clear

/-! ### Completion -/

theorem State.Inv.setNum {s : State} (hs : s.Inv) (i : Reg) {n : List Limb} (hn : n.length ≤ s.maxLimbs) :
    (s.setNum i n).Inv where
  maxLimbs_ge := hs.maxLimbs_ge
  maxLimbs_le := hs.maxLimbs_le
  num_ok r := by
    by_cases hr : r = i
    · subst hr
      rw [State.num_setNum_same]
      exact ⟨hn, nofun⟩
    · rw [State.num_setNum_other s n hr]
      exact hs.num_ok r
  text_wf := hs.text_wf
  text_below := hs.text_below
  errInfo_ok := hs.errInfo_ok
  busy_clear := hs.busy_clear

/-- A completion leaves the engine idle, so only the agreement of ERRINFO and ERRCODE is to show. -/
theorem State.Inv.finish {s : State} (hs : s.Inv) {code : ErrCode} {info : BitVec 32}
    (h : (s.finish code info).ErrInfoOk) : (s.finish code info).Inv where
  maxLimbs_ge := hs.maxLimbs_ge
  maxLimbs_le := hs.maxLimbs_le
  num_ok := hs.num_ok
  text_wf := hs.text_wf
  text_below := hs.text_below
  errInfo_ok := h
  busy_clear := nofun

theorem State.Inv.complete {s : State} (hs : s.Inv) {r : CmdResult} (hr : r.WithinLimits s) : (s.complete r).Inv := by
  cases r with
  | number rd n => exact (hs.setNum rd hr).finish rfl
  | scalars lo hi => exact State.Inv.finish (s := s.setScalars lo hi) hs.of_fields_eq rfl
  | error e =>
    refine hs.finish ?_
    cases e with
    | illegal => rfl
    | unwritten r =>
      show (BitVec.ofNat 32 r.val).toNat < 16
      exact (Nat.mod_le _ _).trans_lt r.isLt
    | capacity => rfl
    | parse k =>
      show (BitVec.ofNat 32 k).toNat < s.maxText
      exact (Nat.mod_le _ _).trans_lt hr

/-- Every command completes with the invariant kept. -/
theorem State.Inv.exec {s : State} (hs : s.Inv) (i : Instr) : ∃ t, exec i s = .next t ∧ t.Inv := by
  cases i with
  | adc => exact ⟨_, exec_adc s, hs.complete trivial⟩
  | muladd => exact ⟨_, exec_muladd s, hs.complete trivial⟩
  | add rd ra rb => exact ⟨_, exec_add rd ra rb s, hs.complete (addRule_withinLimits rd ra rb s)⟩
  | sub rd ra rb => exact ⟨_, exec_sub rd ra rb s, hs.complete (subRule_withinLimits hs rd ra rb)⟩
  | mul rd ra rb => exact ⟨_, exec_mul rd ra rb s, hs.complete (mulRule_withinLimits rd ra rb s)⟩
  | pow rd ra => exact ⟨_, exec_pow rd ra s, hs.complete (powRule_withinLimits rd ra s)⟩
  | parse rd => exact ⟨_, exec_parse rd s, (hs.complete (parseRule_withinLimits rd s)).of_fields_eq⟩

theorem State.Inv.engineComplete {s : State} (hs : s.Inv) : ∃ t, s.engineComplete = .next t ∧ t.Inv := by
  obtain ⟨_, h⟩ | ⟨i, _, _, _, _, _, h⟩ := engineComplete_cases s
  · exact ⟨_, h, hs.complete (r := .error .illegal) trivial⟩
  · rw [h]
    exact hs.exec i

/-! ### The host's accesses -/

theorem State.Inv.accept {s : State} (hs : s.Inv) (v : Word) : (s.accept v).Inv where
  maxLimbs_ge := hs.maxLimbs_ge
  maxLimbs_le := hs.maxLimbs_le
  num_ok := hs.num_ok
  text_wf := hs.text_wf
  text_below := hs.text_below
  errInfo_ok := rfl
  busy_clear _ := ⟨rfl, rfl⟩

/-- The buffer's size is a multiple of 8, so the eight bytes of a word that begins inside it all lie inside. -/
theorem State.Inv.writeText {s : State} (hs : s.Inv) {k : Nat} (hk : 8 * k < s.maxText) (v : Word) :
    State.Inv { s with text := Memory.writeBytes s.text (8 * k) (bytesOf v) } where
  maxLimbs_ge := hs.maxLimbs_ge
  maxLimbs_le := hs.maxLimbs_le
  num_ok := hs.num_ok
  text_wf := Memory.wf_writeBytes _ _ _ hs.text_wf
  text_below := by
    have hend : 8 * k + (bytesOf v).length ≤ s.maxText := by
      rw [State.maxText] at hk ⊢
      rw [bytesOf_length]
      omega
    exact Memory.below_writeBytes _ _ _ hend hs.text_below
  errInfo_ok := hs.errInfo_ok
  busy_clear := hs.busy_clear

/-- A dropped write only sets OVERRUN, so the write itself is all there is to show. -/
theorem State.Inv.unlessBusy {s : State} (hs : s.Inv) {write : State → State} (hw : (write s).Inv) :
    (s.unlessBusy write).Inv := by
  cases he : s.engine with
  | idle => rwa [unlessBusy_idle he]
  | running => rw [unlessBusy_running he]; exact hs.of_fields_eq

theorem State.Inv.hostWrite {s : State} (hs : s.Inv) (r : WinReg) (v : Word) : (s.hostWrite r v).Inv := by
  unfold State.hostWrite
  cases r with
  | cmd => exact hs.unlessBusy (hs.accept v)
  | sa | sb | scin | sacc | exp | textLen => exact hs.unlessBusy hs.of_fields_eq
  | status =>
    dsimp only
    split
    · exact hs.of_fields_eq
    · exact hs
  | nsel => exact hs.of_fields_eq
  | textw k =>
    refine hs.unlessBusy ?_
    split
    case isTrue hk => exact hs.writeText hk v
    case isFalse => exact hs
  | id | param | slo | shi | ninfo | reserved | limb => exact hs

theorem State.Inv.hostAccess {s t : State} (hs : s.Inv) {a : Access} (h : s.hostAccess a = .next t) : t.Inv := by
  obtain ⟨_, h'⟩ | ⟨_, _, h'⟩ | ⟨_, _, _, h'⟩ | ⟨v, _, _, _, h'⟩ := hostAccess_cases s a <;> rw [h'] at h <;> cases h
  · exact hs.of_fields_eq
  · exact hs.of_fields_eq
  · exact (hs.hostWrite (winReg a.off) v).of_fields_eq

/-! ### Reset and the step -/

theorem State.Inv.platformReset {s : State} (hs : s.Inv) : s.platformReset.Inv where
  maxLimbs_ge := hs.maxLimbs_ge
  maxLimbs_le := hs.maxLimbs_le
  num_ok r := by
    rw [State.num_platformReset]
    exact ⟨Nat.zero_le _, fun _ => rfl⟩
  text_wf := State.reset_text_wf
  text_below := rfl
  errInfo_ok := rfl
  busy_clear := nofun

theorem State.Inv.inputs {s : State} (hs : s.Inv) (rest : List Event) : State.Inv { s with inputs := rest } :=
  hs.of_fields_eq

/-- The completion of the running command, for the two ways the engine gets its turn. -/
theorem State.Inv.of_engineComplete {s t : State} (hs : s.Inv) (h : s.engineComplete = .next t) : t.Inv := by
  obtain ⟨u, hu, hinv⟩ := hs.engineComplete
  rw [hu] at h
  cases h
  exact hinv

theorem State.Inv.step {s t : State} (hs : s.Inv) (h : step s = .next t) : t.Inv := by
  obtain ⟨_, _, rfl⟩ | ⟨_, _, hc⟩ | ⟨rest, _, _, rfl⟩ | ⟨rest, _, _, hc⟩ | ⟨rest, _, rfl⟩ | ⟨a, rest, _, _, ha⟩ :=
    step_cases h
  · exact hs
  · exact hs.of_engineComplete hc
  · exact hs.inputs rest
  · exact (hs.inputs rest).of_engineComplete hc
  · exact (hs.inputs rest).platformReset
  · exact (hs.inputs rest).hostAccess ha

/-- Settles O18: every event the total order can bring (an idle wait, a completion, a reset, a host access) keeps the
invariant. -/
theorem everyStepKeepsTheInvariant : Obligations.EveryStepKeepsTheInvariant := fun _ _ hs h => hs.step h

end Sys2Proof.Machine
end

section
/-!
PROOFS. Completing a command: what every completion leaves as it was, that NSEL takes no part in it, and that the
destination named makes no difference to the result (10_state.md R27, R29, R42).
-/

namespace Sys2Proof.Machine

/-! ### The frame of a completion -/

@[simp] theorem State.complete_engine (s : State) (r : CmdResult) : (s.complete r).engine = .idle := by
  cases r <;> rfl

@[simp] theorem State.complete_done (s : State) (r : CmdResult) : (s.complete r).done = true := by
  cases r <;> rfl

@[simp] theorem State.complete_overrun (s : State) (r : CmdResult) : (s.complete r).overrun = s.overrun := by
  cases r <;> rfl

/-- A completion writes the destination, STATUS and at most the draw counter. -/
theorem State.keepsControl_complete (s : State) (r : CmdResult) (d : Nat) :
    s.KeepsControl { s.complete r with draws := d } := by
  cases r <;> exact ⟨rfl, rfl, rfl, rfl, rfl, rfl, rfl, rfl, rfl, rfl, fun _ => rfl, rfl, rfl⟩

/-- Settles O10: a command ends with one of the completions, and each of them keeps the control frame. -/
theorem everyCommandCompletes : Obligations.EveryCommandCompletes := by
  intro i s
  obtain ⟨r, d, h, _⟩ := exec_completes i s
  exact ⟨_, h, s.complete_engine r, s.complete_done r, s.keepsControl_complete r d⟩

/-! ### The engine's turn -/

theorem State.engineTurn_running {s : State} (h : s.engine = .running) : s.engineTurn = s.engineComplete := by
  simp [State.engineTurn, h]

theorem State.engineComplete_decoded {s : State} {i : Instr} (h : decode s.cmd = some i) :
    s.engineComplete = exec i s := by
  simp [State.engineComplete, h]

/-- Settles O8: the two ways the engine gets its turn both complete the decoded command. -/
theorem stepRunsTheDecodedCommand : Obligations.StepRunsTheDecodedCommand := by
  refine ⟨fun s i he hi hd => ?_, fun s i rest he hi hd => ?_⟩
  · rw [step_running he hi, State.engineComplete_decoded hd]
  · rw [step_engineTurn hi, State.engineTurn_running (s := { s with inputs := rest }) he]
    exact State.engineComplete_decoded (s := { s with inputs := rest }) hd

/-! ### NSEL -/

theorem State.complete_nsel (s : State) (r : CmdResult) (n : Reg) :
    State.complete { s with nsel := n } r = { s.complete r with nsel := n } := by
  cases r <;> rfl

/-- Settles O15: no rule reads NSEL, so the rule ends in the same result, and the completion carries NSEL along. -/
theorem selectorDoesNotAffectCommands : Obligations.SelectorDoesNotAffectCommands := by
  intro i s n
  cases i with
  | adc => exact ⟨_, exec_adc s, congrArg Host.Outcome.next (s.complete_nsel (adcRule s) n)⟩
  | muladd => exact ⟨_, exec_muladd s, congrArg Host.Outcome.next (s.complete_nsel (muladdRule s) n)⟩
  | add rd ra rb => exact ⟨_, exec_add rd ra rb s, congrArg Host.Outcome.next (s.complete_nsel (addRule rd ra rb s) n)⟩
  | sub rd ra rb => exact ⟨_, exec_sub rd ra rb s, congrArg Host.Outcome.next (s.complete_nsel (subRule rd ra rb s) n)⟩
  | mul rd ra rb => exact ⟨_, exec_mul rd ra rb s, congrArg Host.Outcome.next (s.complete_nsel (mulRule rd ra rb s) n)⟩
  | pow rd ra => exact ⟨_, exec_pow rd ra s, congrArg Host.Outcome.next (s.complete_nsel (powRule rd ra s) n)⟩
  | parse rd =>
    exact ⟨_, exec_parse rd s, congrArg (Host.Outcome.next ∘ State.drawn) (s.complete_nsel (parseRule rd s) n)⟩

/-! ### The destination -/

/-- Two results that differ in the destination only: the same error, or the same number for `x[rd]` and for `x[rd']`. -/
inductive CmdResult.SameUpTo (rd rd' : Reg) : CmdResult → CmdResult → Prop
  | error (e : CmdError) : SameUpTo rd rd' (.error e) (.error e)
  | number (n : List Limb) : SameUpTo rd rd' (.number rd n) (.number rd' n)

theorem withSource_sameUpTo {rd rd' : Reg} {rule rule' : List Limb → CmdResult} (s : State) (ra : Reg)
    (h : ∀ a, (rule a).SameUpTo rd rd' (rule' a)) : (withSource s ra rule).SameUpTo rd rd' (withSource s ra rule') := by
  unfold withSource
  cases s.source ra with
  | error e => exact .error e
  | ok a => exact h a

theorem withSources_sameUpTo {rd rd' : Reg} {rule rule' : List Limb → List Limb → CmdResult} (s : State) (ra rb : Reg)
    (h : ∀ a b, (rule a b).SameUpTo rd rd' (rule' a b)) :
    (withSources s ra rb rule).SameUpTo rd rd' (withSources s ra rb rule') :=
  withSource_sameUpTo s ra fun a => withSource_sameUpTo s rb fun b => h a b

/-- A capacity check looks at the sources only. -/
theorem CmdResult.sameUpTo_ite {rd rd' : Reg} {p : Prop} [Decidable p] (n : List Limb) :
    (if p then CmdResult.error .capacity else .number rd n).SameUpTo rd rd'
      (if p then .error .capacity else .number rd' n) := by
  split
  · exact .error _
  · exact .number n

theorem CmdError.code_ne_none (e : CmdError) : e.code ≠ .none := by cases e <;> nofun

/-- Commands whose rules agree up to the destination have the same error, and equal results where they have one. -/
theorem exec_of_sameUpTo {i i' : Instr} {s : State} {rd rd' : Reg} {r r' : CmdResult}
    (hi : exec i s = .next (s.complete r)) (hi' : exec i' s = .next (s.complete r')) (h : r.SameUpTo rd rd' r') :
    ∃ t u, exec i s = .next t ∧ exec i' s = .next u ∧ t.errCode = u.errCode ∧ t.errInfo = u.errInfo ∧
      (t.errCode = .none → t.num rd = u.num rd') := by
  refine ⟨_, _, hi, hi', ?_⟩
  cases h with
  | error e => exact ⟨rfl, rfl, fun hnone => absurd hnone e.code_ne_none⟩
  | number n => exact ⟨rfl, rfl, fun _ => by simp⟩

/-- Settles O16: each rule computes its result from the sources as they stand before the write to RD. -/
theorem destinationMayAliasSources : Obligations.DestinationMayAliasSources := by
  intro s ra rb rd rd'
  refine ⟨exec_of_sameUpTo (exec_add rd ra rb s) (exec_add rd' ra rb s) ?_,
    exec_of_sameUpTo (exec_sub rd ra rb s) (exec_sub rd' ra rb s) ?_,
    exec_of_sameUpTo (exec_mul rd ra rb s) (exec_mul rd' ra rb s) ?_,
    exec_of_sameUpTo (exec_pow rd ra s) (exec_pow rd' ra s) ?_⟩
  · exact withSources_sameUpTo s ra rb fun a b => CmdResult.sameUpTo_ite (add a b)
  · exact withSources_sameUpTo s ra rb fun a b => .number (sub a b)
  · exact withSources_sameUpTo s ra rb fun a b => CmdResult.sameUpTo_ite (mul a b)
  · exact withSource_sameUpTo s ra fun base => CmdResult.sameUpTo_ite (pow base s.exp)

end Sys2Proof.Machine
end

section
/-!
PROOFS. The rule of a host read and of a host write at each register of the window, in the words of the obligations:
what the step answers, in terms of `State.afterRead` and `State.afterWrite` (10_state.md R30 to R46).
-/

namespace Sys2Proof.Machine

/-- The 8-byte-aligned offset `off` of the window is a place of `w` (10_state.md R30). -/
abbrev WinReg.StandsAt (w : WinReg) (off : Nat) : Prop := off < Config.windowSize ∧ off % 8 = 0 ∧ winReg off = w

theorem standsAt_limb {k : Nat} (h : k < 4096) : (WinReg.limb k).StandsAt (0x8000 + 8 * k) :=
  ⟨by unfold Config.windowSize; omega, by omega, winReg_limb h⟩

theorem standsAt_textw {k : Nat} (h : k < 8192) : (WinReg.textw k).StandsAt (0x10000 + 8 * k) :=
  ⟨by unfold Config.windowSize; omega, by omega, winReg_textw k⟩

theorem standsAt_reserved {off : Nat} (h1 : 0x0070 ≤ off) (h2 : off ≤ 0x7FF8) (ha : off % 8 = 0) :
    WinReg.reserved.StandsAt off :=
  ⟨by unfold Config.windowSize; omega, ha, winReg_reserved h1 h2⟩

/-! ### One access as a step -/

theorem step_read {s : State} {w : WinReg} {off : Nat} {rest : List Event} (hw : w.StandsAt off)
    (hi : s.inputs = .access ⟨.read, 8, off⟩ :: rest) : step s = .next (s.afterRead rest (s.hostRead w)) := by
  obtain ⟨hoff, halign, rfl⟩ := hw
  rw [step_access hi, hostAccess_read hoff halign]
  rfl

/-- The log of responses plays no part in a write's effect. -/
theorem unlessBusy_respond {s : State} {r : Response} {write : State → State}
    (h : (write s).respond r = write (s.respond r)) :
    (s.unlessBusy write).respond r = (s.respond r).unlessBusy write := by
  cases he : s.engine with
  | idle => rw [unlessBusy_idle he, unlessBusy_idle (s := s.respond r) he, h]
  | running => rw [unlessBusy_running he, unlessBusy_running (s := s.respond r) he]; rfl

theorem hostWrite_respond (s : State) (w : WinReg) (v : Word) (r : Response) :
    (s.hostWrite w v).respond r = (s.respond r).hostWrite w v := by
  unfold State.hostWrite
  cases w with
  | cmd | sa | sb | scin | sacc | exp | textLen => exact unlessBusy_respond rfl
  | textw k => exact unlessBusy_respond (apply_ite (State.respond · r) _ _ _)
  | status => dsimp only; split <;> rfl
  | nsel | id | param | slo | shi | ninfo | reserved | limb => rfl

theorem step_write {s : State} {w : WinReg} {v : Word} {off : Nat} {rest : List Event} (hw : w.StandsAt off)
    (hi : s.inputs = .access ⟨.write v, 8, off⟩ :: rest) :
    step s = .next ((s.afterWrite rest).hostWrite w v) := by
  obtain ⟨hoff, halign, rfl⟩ := hw
  rw [step_access hi, hostAccess_write hoff halign, hostWrite_respond]
  rfl

/-! ### Writes -/

/-- A write to an operand register while idle has the effect of that register's own write (10_state.md R41). -/
theorem step_write_idle {s : State} {w : WinReg} {v : Word} {off : Nat} {rest : List Event} {write : State → State}
    (he : s.engine = .idle) (hw : w.StandsAt off) (hi : s.inputs = .access ⟨.write v, 8, off⟩ :: rest)
    (hop : ∀ u : State, u.hostWrite w v = u.unlessBusy write) : step s = .next (write (s.afterWrite rest)) := by
  rw [step_write hw hi, hop, unlessBusy_idle (s := s.afterWrite rest) he]

/-- A write to an operand register while busy is dropped and sets OVERRUN (10_state.md R41). -/
theorem step_write_busy {s : State} {w : WinReg} {v : Word} {off : Nat} {rest : List Event} {write : State → State}
    (he : s.engine = .running) (hw : w.StandsAt off) (hi : s.inputs = .access ⟨.write v, 8, off⟩ :: rest)
    (hop : ∀ u : State, u.hostWrite w v = u.unlessBusy write) :
    step s = .next { s.afterWrite rest with overrun := true } := by
  rw [step_write hw hi, hop, unlessBusy_running (s := s.afterWrite rest) he]

/-- A STATUS write moves OVERRUN only (10_state.md R35). -/
theorem hostWrite_status (s : State) (v : Word) :
    s.hostWrite .status v = { s with overrun := if v.getLsbD 2 then false else s.overrun } := by
  unfold State.hostWrite
  dsimp only
  split <;> rfl

/-- Two writes with the same effect on every state make the same step. -/
theorem step_write_congr {s : State} {r : WinReg} {v w : Word} {off : Nat} {rest : List Event} (hr : r.StandsAt off)
    (h : ∀ u : State, u.hostWrite r v = u.hostWrite r w) :
    step { s with inputs := .access ⟨.write v, 8, off⟩ :: rest } =
      step { s with inputs := .access ⟨.write w, 8, off⟩ :: rest } := by
  rw [step_write hr rfl, step_write hr rfl, h]
  rfl

/-- Settles O12: an idle CMD write is accepted with no look at the word. -/
theorem cmdWriteIsAccepted : Obligations.CmdWriteIsAccepted := fun _ _ _ he hi =>
  step_write_idle (w := .cmd) he (by decide) hi fun _ => rfl

/-- Settles O46: each of these registers is written unless the block is busy. -/
theorem busyWritesAreDropped : Obligations.BusyWritesAreDropped := by
  intro s v off rest he hi hoff
  simp only [List.mem_cons, List.not_mem_nil, or_false] at hoff
  obtain (rfl | rfl | rfl | rfl | rfl | rfl | rfl) | ⟨k, hk, rfl⟩ := hoff
  · exact step_write_busy (w := .cmd) he (by decide) hi fun _ => rfl
  · exact step_write_busy (w := .sa) he (by decide) hi fun _ => rfl
  · exact step_write_busy (w := .sb) he (by decide) hi fun _ => rfl
  · exact step_write_busy (w := .scin) he (by decide) hi fun _ => rfl
  · exact step_write_busy (w := .sacc) he (by decide) hi fun _ => rfl
  · exact step_write_busy (w := .exp) he (by decide) hi fun _ => rfl
  · exact step_write_busy (w := .textLen) he (by decide) hi fun _ => rfl
  · exact step_write_busy he (standsAt_textw hk) hi fun _ => rfl

/-- Settles O47: while idle each register takes its own bits of the value. -/
theorem idleOperandWritesAreStored : Obligations.IdleOperandWritesAreStored := by
  intro s v rest he
  rw [← BitVec.setWidth_one, ← BitVec.setWidth_eq_extractLsb' (by decide)]
  exact ⟨fun hi => step_write_idle (w := .sa) he (by decide) hi fun _ => rfl,
    fun hi => step_write_idle (w := .sb) he (by decide) hi fun _ => rfl,
    fun hi => step_write_idle (w := .scin) he (by decide) hi fun _ => rfl,
    fun hi => step_write_idle (w := .sacc) he (by decide) hi fun _ => rfl,
    fun hi => step_write_idle (w := .exp) he (by decide) hi fun _ => rfl,
    fun hi => step_write_idle (w := .textLen) he (by decide) hi fun _ => rfl⟩

/-- Settles O48: neither write asks whether the block is busy. -/
theorem statusAndSelectorWritesAreHonoured : Obligations.StatusAndSelectorWritesAreHonoured := by
  intro s v rest
  refine ⟨fun hi => ?_, fun hi => ⟨regOf (v.setWidth 4), by simp [regOf], ?_⟩⟩
  · rw [step_write (w := .status) (by decide) hi, hostWrite_status]
    rfl
  · exact step_write (w := .nsel) (by decide) hi

/-- Settles O49: the write arms of these registers change nothing, and the others look at the bits they store only. -/
theorem readOnlyAndReservedOffsetsAreInert : Obligations.ReadOnlyAndReservedOffsetsAreInert := by
  refine ⟨fun s off rest => ⟨fun v hi hoff => ?_, fun h1 h2 ha hi => ?_⟩, fun s v w off rest hbits => ?_⟩
  · simp only [List.mem_cons, List.not_mem_nil, or_false] at hoff
    obtain (rfl | rfl | rfl | rfl | rfl) | ⟨k, hk, rfl⟩ | ⟨h1, h2, ha⟩ := hoff
    · exact step_write (w := .id) (by decide) hi
    · exact step_write (w := .param) (by decide) hi
    · exact step_write (w := .slo) (by decide) hi
    · exact step_write (w := .shi) (by decide) hi
    · exact step_write (w := .ninfo) (by decide) hi
    · exact step_write (standsAt_limb hk) hi
    · exact step_write (standsAt_reserved h1 h2 ha) hi
  · exact step_read (standsAt_reserved h1 h2 ha) hi
  · obtain ⟨rfl, h⟩ | ⟨rfl, h⟩ | ⟨rfl, h⟩ | ⟨rfl, h⟩ := hbits
    · exact step_write_congr (r := .status) (by decide) fun u => by rw [hostWrite_status, hostWrite_status, h]
    · have hstored : v.setWidth 1 = w.setWidth 1 := by rw [BitVec.setWidth_one, BitVec.setWidth_one, h]
      exact step_write_congr (r := .scin) (by decide) fun u => by simp only [State.hostWrite, hstored]
    · have hstored : v.setWidth 32 = w.setWidth 32 := BitVec.eq_of_toNat_eq (by simpa using h)
      exact step_write_congr (r := .textLen) (by decide) fun u => by simp only [State.hostWrite, hstored]
    · have hstored : v.setWidth 4 = w.setWidth 4 := BitVec.eq_of_toNat_eq (by simpa using h)
      exact step_write_congr (r := .nsel) (by decide) fun u => by simp only [State.hostWrite, hstored]

/-! ### Reads of the control registers -/

/-- A concatenation's value: the high part above the `n` bits of the low one. -/
theorem toNat_append_eq_add {m n : Nat} (x : BitVec m) (y : BitVec n) :
    (x ++ y).toNat = x.toNat * 2 ^ n + y.toNat := by
  rw [BitVec.toNat_append, ← Nat.shiftLeft_add_eq_or_of_lt y.isLt, Nat.shiftLeft_eq]

/-- PARAM's four fields in their places (10_state.md R32). -/
theorem State.param_toNat {s : State} (h : s.maxLimbs ≤ 4096) :
    s.param.toNat = s.maxLimbs + 16 * 2 ^ 16 + 64 * 2 ^ 24 + 64 * 2 ^ 32 := by
  have hmax : s.maxLimbs % 2 ^ 16 = s.maxLimbs := Nat.mod_eq_of_lt (by omega)
  simp only [State.param, toNat_append_eq_add, BitVec.toNat_ofNat, hmax, Config.expBits, Config.limbBits, Config.nreg]
  omega

/-- STATUS's five fields in their places (10_state.md R34). -/
theorem State.status_toNat (s : State) :
    s.status.toNat = (if s.engine = .running then 1 else 0) + (if s.done then 2 else 0) + (if s.overrun then 4 else 0) +
      256 * s.errCode.byte.toNat + 2 ^ 32 * s.errInfo.toNat := by
  have hbusy : s.busy.toNat = if s.engine = .running then 1 else 0 := by
    simp only [← State.busy_iff, Bool.toNat, Bool.cond_eq_ite]
  have hdone : s.done.toNat * 2 = if s.done then 2 else 0 := by cases s.done <;> rfl
  have hoverrun : s.overrun.toNat * 4 = if s.overrun then 4 else 0 := by cases s.overrun <;> rfl
  simp only [State.status, toNat_append_eq_add, BitVec.toNat_ofBool, BitVec.toNat_ofNat, ← hbusy, ← hdone, ← hoverrun]
  omega

theorem State.runningOp_toNat (s : State) : s.runningOp.toNat = s.cmd.toNat % 256 := by
  simp [State.runningOp, BitVec.extractLsb'_toNat]

theorem State.runningRd_toNat (s : State) : s.runningRd.toNat = s.cmd.toNat / 256 % 16 := by
  simp [State.runningRd, BitVec.extractLsb'_toNat, Nat.shiftRight_eq_div_pow]

/-- SLO and SHI are pending exactly while an ADC or MULADD runs (70_reset_and_hazards.md R207). -/
theorem State.scalarsPending_iff (s : State) :
    s.scalarsPending = true ↔ s.engine = .running ∧ s.cmd.toNat % 256 ∈ [0x01, 0x02] := by
  simp [State.scalarsPending, State.busy_iff, ← BitVec.toNat_inj, State.runningOp_toNat]

/-- x[NSEL] is pending exactly while a number command runs whose RD field is NSEL (70_reset_and_hazards.md R207). -/
theorem State.selectedPending_iff (s : State) :
    s.selectedPending = true ↔ s.engine = .running ∧ s.cmd.toNat % 256 ∈ [0x10, 0x11, 0x12, 0x13, 0x20] ∧
      s.nsel.val = s.cmd.toNat / 256 % 16 := by
  simp [State.selectedPending, State.busy_iff, ← BitVec.toNat_inj, State.runningOp_toNat, State.runningRd_toNat,
    and_assoc, or_assoc, eq_comm (a := s.nsel.val)]

/-- Settles O50: none of these registers is a pending destination, so each reads its settled value. -/
theorem registersReadTheirCurrentValues : Obligations.RegistersReadTheirCurrentValues := by
  intro s rest
  refine ⟨fun hi => step_read (w := .id) (by decide) hi,
    fun hmax hi => ⟨_, step_read (w := .param) (by decide) hi, State.param_toNat hmax⟩,
    fun hi => step_read (w := .cmd) (by decide) hi,
    fun hi => ⟨_, step_read (w := .status) (by decide) hi, s.status_toNat⟩,
    fun hi => step_read (w := .sa) (by decide) hi, fun hi => step_read (w := .sb) (by decide) hi,
    fun hi => step_read (w := .scin) (by decide) hi, fun hi => step_read (w := .sacc) (by decide) hi,
    fun hi => step_read (w := .exp) (by decide) hi, fun hi => step_read (w := .textLen) (by decide) hi,
    fun hi => step_read (w := .nsel) (by decide) hi, fun hother => ?_⟩
  have hsettled : s.scalarsPending = false := by
    rw [← Bool.not_eq_true, s.scalarsPending_iff]
    exact fun ⟨he, hop⟩ => hother he hop
  refine ⟨fun hi => ?_, fun hi => ?_⟩
  · rw [step_read (w := .slo) (by decide) hi, hostRead_settled (r := .slo) hsettled]
    rfl
  · rw [step_read (w := .shi) (by decide) hi, hostRead_settled (r := .shi) hsettled]
    rfl

/-! ### The number window -/

/-- NINFO of a register within capacity: VALID above a LEN that fits its field (10_state.md R39). -/
theorem ninfoOf_toNat {r : NumReg} (h : r.len < 2 ^ 32) :
    (ninfoOf r).toNat = if r.valid then 2 ^ 32 + r.len else 0 := by
  unfold ninfoOf
  split
  · simp only [toNat_append_eq_add, BitVec.toNat_ofNat, Nat.mod_eq_of_lt h]
    omega
  · rfl

theorem limbOf_inside {r : NumReg} {k : Nat} (hv : r.valid = true) (hk : k < r.len) :
    r.limbs[k]? = some (limbOf r k) := by
  have hlen : k < r.limbs.length := hk
  simp [limbOf, limbAt, hv, hk, hlen]

theorem limbOf_outside {r : NumReg} {k : Nat} (h : r.valid = false ∨ r.len ≤ k) : limbOf r k = 0 := by
  unfold limbOf
  rw [if_neg]
  rintro ⟨hv, hk⟩
  obtain h | h := h
  · simp [hv] at h
  · omega

/-- A LIMB[k] read of a register that is not pending. The bound by MAX_LIMBS makes no difference where LEN obeys it. -/
theorem hostRead_limb_settled {s : State} (hpending : s.selectedPending = false)
    (hlen : (s.num s.nsel).len ≤ s.maxLimbs) (k : Nat) : s.hostRead (.limb k) = limbOf (s.num s.nsel) k := by
  rw [hostRead_settled (by simp [State.readsAnyValue, hpending])]
  by_cases hk : k < s.maxLimbs
  · exact if_pos hk
  · exact (if_neg hk).trans (limbOf_outside (.inr (by omega))).symm

/-- Settles O51: beyond MAX_LIMBS no state matters; below it a register that is not pending shows its limbs. -/
theorem numberWindowShowsTheSelectedRegister : Obligations.NumberWindowShowsTheSelectedRegister := by
  refine ⟨fun s rest k hk hmax hi => ?_, fun s rest k hs hk hother => ?_⟩
  · rw [step_read (standsAt_limb hk) hi, hostRead_limb_beyond hmax]
  · have hsettled : s.selectedPending = false := by
      rw [← Bool.not_eq_true, s.selectedPending_iff]
      exact fun ⟨he, hop, hsel⟩ => hother he hop hsel
    have hlen : (s.num s.nsel).len ≤ s.maxLimbs := (hs.num_ok s.nsel).1
    have hmax : s.maxLimbs ≤ 4096 := hs.maxLimbs_le
    refine ⟨fun hi => ⟨_, step_read (w := .ninfo) (by decide) hi, ?_⟩,
      fun hi => ⟨_, step_read (standsAt_limb hk) hi, ?_⟩⟩
    · rw [hostRead_settled (r := .ninfo) hsettled]
      exact ninfoOf_toNat (by omega)
    · rw [hostRead_limb_settled hsettled hlen]
      exact ⟨limbOf_inside, limbOf_outside⟩

end Sys2Proof.Machine
end

section
/-!
PROOFS. The text window: a word of it and its eight bytes, the first the least significant (10_state.md R44,
20_memory.md R62).
-/

namespace Sys2Proof.Machine

theorem packBytes_lt (bs : List Byte) : packBytes bs < 256 ^ bs.length := by
  induction bs with
  | nil => simp [packBytes]
  | cons b bs ih =>
    have hb : b.toNat < 256 := b.isLt
    rw [packBytes, List.length_cons, Nat.pow_succ]
    omega

/-- Byte `m` of a packed word is the `m`-th byte packed. -/
theorem packBytes_byte (bs : List Byte) {m : Nat} (h : m < bs.length) :
    packBytes bs / 256 ^ m % 256 = bs[m].toNat := by
  induction bs generalizing m with
  | nil => simp at h
  | cons b bs ih =>
    have hb : b.toNat < 256 := b.isLt
    cases m with
    | zero =>
      rw [packBytes, Nat.pow_zero, Nat.div_one, List.getElem_cons_zero]
      omega
    | succ m =>
      have htail : packBytes (b :: bs) / 256 = packBytes bs := by rw [packBytes]; omega
      rw [Nat.pow_succ', ← Nat.div_div_eq_div_mul, htail, List.getElem_cons_succ]
      exact ih (by simpa using h)

/-- The same of eight bytes packed into a 64-bit value, which holds them all. -/
theorem ofNat_packBytes_byte {bs : List Byte} (hlen : bs.length = 8) {m : Nat} (h : m < bs.length) :
    (BitVec.ofNat 64 (packBytes bs)).extractLsb' (8 * m) 8 = bs[m] := by
  have hlt : packBytes bs < 2 ^ 64 := (packBytes_lt bs).trans_eq (by simp [hlen])
  apply BitVec.eq_of_toNat_eq
  rw [BitVec.extractLsb'_toNat, BitVec.toNat_ofNat, Nat.mod_eq_of_lt hlt, Nat.shiftRight_eq_div_pow, Nat.pow_mul]
  exact packBytes_byte bs h

/-- Byte `m` of TEXTW[k] is TEXT[8k + m] of the same consultation. -/
theorem State.textWord_byte (s : State) (k : Nat) {m : Nat} (h : m < 8) :
    (s.textWord k).extractLsb' (8 * m) 8 = s.textByte (8 * k + m) := by
  rw [State.textWord, ofNat_packBytes_byte (by simp) (by simpa using h)]
  simp

/-- Two words with the same eight bytes are equal. -/
theorem word_eq_of_bytes {v w : Word} (h : ∀ m, m < 8 → v.extractLsb' (8 * m) 8 = w.extractLsb' (8 * m) 8) : v = w := by
  apply BitVec.eq_of_getLsbD_eq
  intro i hi
  have hbit := congrArg (BitVec.getLsbD · (i % 8)) (h (i / 8) (by omega))
  simpa [BitVec.getLsbD_extractLsb', Nat.mod_lt, Nat.div_add_mod] using hbit

theorem read_writeBytes_bytesOf (m : Memory) (a : Nat) (v : Word) {i : Nat} (h : i < 8) :
    Memory.read (Memory.writeBytes m a (bytesOf v)) (a + i) = some (v.extractLsb' (8 * i) 8) := by
  rw [Memory.read_writeBytes_inside _ _ _ (by simpa using h)]
  simp [bytesOf]

/-- A TEXTW[k] read inside the buffer (10_state.md R44). -/
theorem hostRead_textw {s : State} {k : Nat} (h : 8 * k < s.maxText) : s.hostRead (.textw k) = s.textWord k := by
  rw [hostRead_settled rfl]
  exact if_pos h

/-- A TEXTW[k] read beyond the buffer (10_state.md R44). -/
theorem hostRead_textw_beyond {s : State} {k : Nat} (h : s.maxText ≤ 8 * k) : s.hostRead (.textw k) = 0 := by
  rw [hostRead_settled rfl]
  exact if_neg (Nat.not_lt.mpr h)

/-- Settles O54: beyond the buffer a TEXTW read and an idle TEXTW write take their other branch. -/
theorem textBeyondTheBufferIsInert : Obligations.TextBeyondTheBufferIsInert := by
  refine fun s k rest hk hmax => ⟨fun hi => ?_, fun v he hi => ?_⟩
  · rw [step_read (standsAt_textw hk) hi, hostRead_textw_beyond hmax]
  · rw [step_write (standsAt_textw hk) hi, hostWrite_textw_beyond (s := s.afterWrite rest) he hmax]

/-- A TEXTW[k] read finds the written bytes of the word in their places. -/
theorem step_read_textw_written {s : State} {v : Word} {k : Nat} {rest : List Event} (hk : k < 8192)
    (hmax : 8 * k < s.maxText) (hbytes : ∀ m, m < 8 → Memory.read s.text (8 * k + m) = some (v.extractLsb' (8 * m) 8))
    (hi : s.inputs = .access ⟨.read, 8, 0x10000 + 8 * k⟩ :: rest) : step s = .next (s.afterRead rest v) := by
  have hword : s.textWord k = v := word_eq_of_bytes fun m hm =>
    (s.textWord_byte k hm).trans (State.textByte_written (hbytes m hm))
  rw [step_read (standsAt_textw hk) hi, hostRead_textw hmax, hword]

/-- An idle TEXTW[k] write inside the buffer, as a step. -/
theorem step_write_textw {s : State} {v : Word} {k : Nat} {rest : List Event} (he : s.engine = .idle) (hk : k < 8192)
    (hmax : 8 * k < s.maxText) (hi : s.inputs = .access ⟨.write v, 8, 0x10000 + 8 * k⟩ :: rest) :
    step s = .next { s.afterWrite rest with text := Memory.writeBytes s.text (8 * k) (bytesOf v) } := by
  rw [step_write (standsAt_textw hk) hi, hostWrite_textw (s := s.afterWrite rest) he hmax]
  rfl

/-- Settles O53: the eight bytes of the value are the eight bytes of the word, for the write and for the read. -/
theorem textWriteSetsEightBytes : Obligations.TextWriteSetsEightBytes := by
  refine ⟨fun s v k rest he hk hmax hi => ?_, fun s k rest hk hmax hi => ?_⟩
  · have hbytes (m : Nat) (hm : m < 8) := read_writeBytes_bytesOf s.text (8 * k) v hm
    refine ⟨_, step_write_textw he hk hmax hi, hbytes, fun a ha => ?_, rfl, fun rest' hrest => ?_⟩
    · exact Memory.read_writeBytes_outside _ _ _ (by simpa using ha)
    · exact step_read_textw_written hk hmax hbytes hrest
  · refine ⟨_, step_read (standsAt_textw hk) hi, fun m hm => ?_⟩
    rw [hostRead_textw hmax]
    exact s.textWord_byte k hm

end Sys2Proof.Machine
end

section
/-!
PROOFS. What a step can do to a number register and to OVERRUN, and the state after reset (10_state.md R21, R23, R34,
R49).
-/

namespace Sys2Proof.Machine

/-! ### Number registers -/

/-- A completion writes at most the register its result names, and that register is valid afterwards. -/
theorem State.complete_num_cases (s : State) (res : CmdResult) (r : Reg) :
    (s.complete res).num r = s.num r ∨ ∃ n, res = .number r n ∧ (s.complete res).num r = ⟨true, n⟩ := by
  cases res with
  | number rd n =>
    by_cases h : r = rd
    · subst h
      exact .inr ⟨n, rfl, s.num_setNum_same r n⟩
    · exact .inl (s.num_setNum_other n h)
  | scalars lo hi => exact .inl rfl
  | error e => exact .inl rfl

/-- The running command is a number command that names `x[r]` as its destination, and `t` holds a number there. -/
def State.WritesRunningDestination (s t : State) (r : Reg) : Prop :=
  ∃ i n, decode s.cmd = some i ∧ resultFits i (.number r n) ∧ t.num r = ⟨true, n⟩

theorem State.engineComplete_num {s t : State} (h : s.engineComplete = .next t) (r : Reg) :
    t.num r = s.num r ∨ s.WritesRunningDestination t r := by
  obtain ⟨_, h'⟩ | ⟨i, res, d, hd, hfits, h', _⟩ := engineComplete_cases s <;> rw [h'] at h <;> cases h
  · exact .inl rfl
  · obtain hsame | ⟨n, rfl, hn⟩ := s.complete_num_cases res r
    · exact .inl hsame
    · exact .inr ⟨i, n, hd, hfits, hn⟩

theorem State.num_hostWrite (s : State) (w : WinReg) (v : Word) (r : Reg) : (s.hostWrite w v).num r = s.num r := by
  obtain ⟨hx, _⟩ := hostWrite_keeps s w v
  rw [State.num, State.num, hx]

theorem State.hostAccess_num {s t : State} {a : Access} (h : s.hostAccess a = .next t) (r : Reg) :
    t.num r = s.num r := by
  obtain ⟨_, h'⟩ | ⟨_, _, h'⟩ | ⟨_, _, _, h'⟩ | ⟨v, _, _, _, h'⟩ := hostAccess_cases s a <;> rw [h'] at h <;> cases h
  · rfl
  · rfl
  · exact s.num_hostWrite _ v r

/-- Everything a step can do to a number register: leave it, reset it, or write it as the running command's
destination at the engine's turn. -/
theorem step_num_cases {s t : State} (h : step s = .next t) (r : Reg) :
    t.num r = s.num r ∨ (∃ rest, s.inputs = .reset :: rest) ∨
      (s.engine = .running ∧ (s.inputs = [] ∨ ∃ rest, s.inputs = .engineTurn :: rest) ∧
        s.WritesRunningDestination t r) := by
  obtain ⟨_, _, rfl⟩ | ⟨hi, he, hc⟩ | ⟨rest, _, _, rfl⟩ | ⟨rest, hi, he, hc⟩ | ⟨rest, hi, _⟩ | ⟨a, rest, _, _, ha⟩ :=
    step_cases h
  · exact .inl rfl
  · exact (State.engineComplete_num hc r).imp_right fun hw => .inr ⟨he, .inl hi, hw⟩
  · exact .inl rfl
  · exact (State.engineComplete_num hc r).imp_right fun hw => .inr ⟨he, .inr ⟨rest, hi⟩, hw⟩
  · exact .inr (.inl ⟨rest, hi⟩)
  · exact .inl (State.hostAccess_num ha r)

/-- Settles O19: a step other than a reset leaves a register as it is or makes it valid. -/
theorem onlyResetClearsValid : Obligations.OnlyResetClearsValid := by
  intro s t r h hreset hvalid
  obtain hsame | ⟨rest, hi⟩ | ⟨_, _, _, _, _, _, hn⟩ := step_num_cases h r
  · rw [hsame, hvalid]
  · exact absurd hi (hreset rest)
  · rw [hn]

/-- Settles O20: a register that changed was reset or written, and the command that wrote it names it. -/
theorem onlyTheNamedDestinationChanges : Obligations.OnlyTheNamedDestinationChanges := by
  intro s t r h hchanged
  obtain hsame | hreset | ⟨he, hi, i, n, hd, hfits, _⟩ := step_num_cases h r
  · exact absurd hsame hchanged
  · exact .inl hreset
  · rw [hd]
    exact .inr ⟨he, hi, by simpa only [resultFits, Option.some.injEq] using hfits⟩

/-! ### OVERRUN -/

theorem State.engineComplete_overrun {s t : State} (h : s.engineComplete = .next t) : t.overrun = s.overrun := by
  obtain ⟨_, h'⟩ | ⟨_, res, _, _, _, h', _⟩ := engineComplete_cases s <;> rw [h'] at h <;> cases h
  · rfl
  · exact s.complete_overrun res

/-- OVERRUN stays set through a write that is dropped, and through one that leaves it alone. -/
theorem unlessBusy_overrun {s : State} {write : State → State} (h : (write s).overrun = true) :
    (s.unlessBusy write).overrun = true := by
  cases he : s.engine with
  | idle => rwa [unlessBusy_idle he]
  | running => rw [unlessBusy_running he]

/-- OVERRUN stays set through every host write but a STATUS write with bit 2 set (10_state.md R35). -/
theorem hostWrite_overrun {s : State} {w : WinReg} {v : Word} (h : s.overrun = true)
    (hclear : ¬ (w = .status ∧ v.getLsbD 2 = true)) : (s.hostWrite w v).overrun = true := by
  cases w with
  | status =>
    have hbit : ¬ v.getLsbD 2 = true := fun hbit => hclear ⟨rfl, hbit⟩
    rw [hostWrite_status]
    exact (if_neg hbit).trans h
  | cmd | sa | sb | scin | sacc | exp | textLen => exact unlessBusy_overrun h
  | textw k => exact unlessBusy_overrun (by split <;> exact h)
  | nsel | id | param | slo | shi | ninfo | reserved | limb => exact h

theorem controlReg_eq_status {n : Nat} (h : controlReg n = .status) : n = 3 := by
  have hnamed : ∀ m < 14, controlReg m = .status → m = 3 := by decide
  by_cases hn : n < 14
  · exact hnamed n hn h
  · rw [controlReg_reserved (Nat.not_lt.mp hn)] at h
    cases h

/-- STATUS stands at 0x0018 and nowhere else. -/
theorem winReg_eq_status {off : Nat} (h : winReg off = .status) (ha : off % 8 = 0) : off = 0x0018 := by
  unfold winReg at h
  split at h
  · have := controlReg_eq_status h
    omega
  · split at h <;> cases h

/-- The accesses that clear OVERRUN: 8-byte STATUS writes with bit 2 set. -/
theorem State.hostAccess_overrun {s t : State} {a : Access} (h : s.hostAccess a = .next t) (hset : s.overrun = true)
    (hclear : t.overrun = false) : ∃ v, a = ⟨.write v, 8, 0x0018⟩ ∧ v.getLsbD 2 = true := by
  obtain ⟨_, h'⟩ | ⟨_, _, h'⟩ | ⟨_, _, _, h'⟩ | ⟨v, _, herr, hkind, h'⟩ := hostAccess_cases s a <;>
    rw [h'] at h <;> cases h
  · exact absurd (hset.symm.trans hclear) nofun
  · exact absurd (hset.symm.trans hclear) nofun
  · obtain ⟨kind, width, off⟩ := a
    obtain ⟨hwidth, halign⟩ : width = 8 ∧ off % 8 = 0 := by simpa [Access.isError] using herr
    by_contra hother
    have hstays : (s.hostWrite (winReg off) v).overrun = true := by
      refine hostWrite_overrun hset fun ⟨hreg, hbit⟩ => hother ⟨v, ?_, hbit⟩
      rw [hwidth, winReg_eq_status hreg halign, ← hkind]
    exact absurd (hstays.symm.trans hclear) nofun

/-- Settles O21: no wait and no completion moves OVERRUN, and one host access clears it. -/
theorem overrunStaysUntilCleared : Obligations.OverrunStaysUntilCleared := by
  intro s t h hset hclear
  have hmoved : t.overrun ≠ s.overrun := by simp [hset, hclear]
  obtain ⟨_, _, rfl⟩ | ⟨_, _, hc⟩ | ⟨rest, _, _, rfl⟩ | ⟨rest, _, _, hc⟩ | ⟨rest, hi, _⟩ | ⟨a, rest, hi, _, ha⟩ :=
    step_cases h
  · exact absurd rfl hmoved
  · exact absurd (State.engineComplete_overrun hc) hmoved
  · exact absurd rfl hmoved
  · exact absurd (State.engineComplete_overrun hc) hmoved
  · exact .inl ⟨rest, hi⟩
  · obtain ⟨v, rfl, hbit⟩ := State.hostAccess_overrun ha hset hclear
    exact .inr ⟨v, rest, hi, hbit⟩

/-! ### Reset -/

/-- Settles O17: MAX_LIMBS is in its range, and nothing has been written. -/
theorem resetMeetsTheInvariant : Obligations.ResetMeetsTheInvariant where
  maxLimbs_ge := Config.maxLimbs_ge
  maxLimbs_le := Config.maxLimbs_le
  num_ok r := by
    rw [State.num_reset]
    exact ⟨Nat.zero_le _, fun _ => rfl⟩
  text_wf := State.reset_text_wf
  text_below := rfl
  errInfo_ok := rfl
  busy_clear := nofun

/-- Settles O58: every field of the reset state, read off. -/
theorem resetValues : Obligations.ResetValues := by
  refine ⟨rfl, rfl, rfl, rfl, rfl, rfl, rfl, rfl, rfl, rfl, rfl, rfl, fun r => ?_, fun k => rfl, rfl⟩
  rw [State.num_reset]
  exact ⟨rfl, rfl⟩

end Sys2Proof.Machine
end

section
/-!
PROOFS. The host's accesses to the window as a whole: access errors, the window's end, and reads (20_memory.md R63, R65,
R66).
-/

namespace Sys2Proof.Machine

theorem Access.isError_iff (a : Access) : a.isError = true ↔ a.width ≠ 8 ∨ a.off % 8 ≠ 0 := by
  simp [Access.isError]

theorem hostAccess_error {s : State} {a : Access} (h : a.off < Config.windowSize) (he : a.isError = true) :
    s.hostAccess a = .next (s.respond (.accessFault 0)) := by
  rw [State.hostAccess, if_neg (Nat.not_le.mpr h), if_pos he]

theorem hostAccess_outside {s : State} {a : Access} (h : Config.windowSize ≤ a.off) :
    s.hostAccess a = .refused (.outsideWindow a.off) :=
  if_pos h

/-- Inside the window every access, an erroneous one too, is answered with a next state. -/
theorem hostAccess_inside {s : State} {a : Access} (h : a.off < Config.windowSize) : ∃ t, s.hostAccess a = .next t := by
  obtain ⟨hout, _⟩ | ⟨_, _, h'⟩ | ⟨_, _, _, h'⟩ | ⟨_, _, _, _, h'⟩ := hostAccess_cases s a
  · exact absurd h (Nat.not_lt.mpr hout)
  · exact ⟨_, h'⟩
  · exact ⟨_, h'⟩
  · exact ⟨_, h'⟩

/-- Settles O55: the answer of an access error is one more response and nothing else. -/
theorem accessErrorsChangeNothing : Obligations.AccessErrorsChangeNothing := by
  intro s a rest hoff hbad hi
  rw [step_access hi, hostAccess_error hoff (a.isError_iff.mpr hbad)]
  rfl

/-- Settles O56: below the window's end there is a next state, so no refusal. -/
theorem accessesOutsideTheWindowAreRefused : Obligations.AccessesOutsideTheWindowAreRefused := by
  intro s a rest hi
  rw [step_access hi]
  refine ⟨hostAccess_outside, fun hrefused => ?_⟩
  by_contra hin
  obtain ⟨t, ht⟩ := hostAccess_inside (s := { s with inputs := rest }) (Nat.not_le.mp hin)
  rw [ht] at hrefused
  cases hrefused

/-- Settles O57: `step_read` at whatever register stands at the offset. -/
theorem readsHaveNoSideEffect : Obligations.ReadsHaveNoSideEffect :=
  fun _ _ _ hoff halign hi => ⟨_, step_read ⟨hoff, halign, rfl⟩ hi⟩

end Sys2Proof.Machine
end

section
/-!
PROOFS. The command word and its fields are one thing, and the decoder answers a command exactly on that command's
encoding (30_encoding.md R85, R86, R89, R91).
-/

namespace Sys2Proof

/-! ### A word and its fields -/

@[simp] theorem fieldsOf_wordOf (f : Fields) : fieldsOf (wordOf f) = f := by
  unfold fieldsOf wordOf
  congr 1
  all_goals
    simp (disch := omega) only [BitVec.extractLsb'_append_eq_of_le, BitVec.extractLsb'_append_eq_of_add_le]
    exact BitVec.extractLsb'_eq_self

@[simp] theorem wordOf_fieldsOf (w : Word) : wordOf (fieldsOf w) = w := by
  unfold wordOf fieldsOf
  iterate 4 rw [BitVec.extractLsb'_append_extractLsb'_eq_extractLsb' (by rfl)]
  exact BitVec.extractLsb'_eq_self

theorem fieldsOf_inj {v w : Word} : fieldsOf v = fieldsOf w ↔ v = w :=
  (Function.LeftInverse.injective wordOf_fieldsOf).eq_iff

/-- Each field counts at the place of its lowest bit (30_encoding.md R85, R89). -/
theorem wordOf_toNat (f : Fields) : (wordOf f).toNat =
    f.op.toNat + 256 * f.rd.toNat + 4096 * f.ra.toNat + 65536 * f.rb.toNat + 2 ^ 20 * f.rsv.toNat := by
  simp only [wordOf, Machine.toNat_append_eq_add]
  omega

/-! ### The fields of a command -/

@[simp] theorem regOf_ofFin (r : Reg) : regOf (.ofFin r) = r := rfl

@[simp] theorem ofFin_regOf (b : BitVec 4) : .ofFin (regOf b) = b := rfl

@[simp] theorem fieldsOf_encode (i : Instr) : fieldsOf (encode i) = fields i := fieldsOf_wordOf _

theorem decodeFields_fields (i : Instr) : decodeFields (fields i) = some i := by
  cases i <;> rfl

/-- On every branch that answers a command, the branch's tests fix the fields that the command does not hold. -/
theorem fields_of_decodeFields {f : Fields} {i : Instr} (h : decodeFields f = some i) : fields i = f := by
  obtain ⟨op, rd, ra, rb, rsv⟩ := f
  simp only [decodeFields] at h
  split_ifs at h
  all_goals
    obtain rfl := Option.some.inj h
    simp_all [fields]

/-- Decoding and encoding are inverse to each other: O2 and O3 are its two directions. -/
theorem decode_eq_some_iff {w : Word} {i : Instr} : decode w = some i ↔ encode i = w := by
  constructor
  · intro h
    rw [encode, fields_of_decodeFields h, wordOf_fieldsOf]
  · rintro rfl
    rw [decode, fieldsOf_encode, decodeFields_fields]

/-- Settles O2: the direction from an encoding. -/
theorem decodeOfEncodeIsIdentity : Obligations.DecodeOfEncodeIsIdentity :=
  fun _ => decode_eq_some_iff.mpr rfl

/-- Settles O3: the direction from a decoded word. -/
theorem encodeOfDecodeIsIdentity : Obligations.EncodeOfDecodeIsIdentity :=
  fun _ _ => decode_eq_some_iff.mp

/-- Settles O4: the field sum of a word, with the fields of each command in it. -/
theorem encodingHasTheFieldSum : Obligations.EncodingHasTheFieldSum := by
  intro i
  rw [encode, wordOf_toNat]
  cases i <;> simp [fields]

/-- Settles O1: the seven words are encodings, so they decode by O2. -/
theorem exampleWordsEncodeAndDecode : Obligations.ExampleWordsEncodeAndDecode := by
  intro p hp
  have henc : encode p.1 = p.2 := by
    revert p
    decide
  exact ⟨henc, decode_eq_some_iff.mpr henc⟩

end Sys2Proof
end

section
/-!
PROOFS. The rows of the opcode table as masks over the fields (30_encoding.md R88), and the three causes of an illegal
word (30_encoding.md R90).
-/

namespace Sys2Proof

/-! ### Match and mask -/

/-- The fieldwise `and`. -/
def Fields.and (f g : Fields) : Fields :=
  ⟨f.op &&& g.op, f.rd &&& g.rd, f.ra &&& g.ra, f.rb &&& g.rb, f.rsv &&& g.rsv⟩

theorem fieldsOf_and (v w : Word) : fieldsOf (v &&& w) = (fieldsOf v).and (fieldsOf w) := by
  simp only [fieldsOf, BitVec.extractLsb'_and, Fields.and]

/-- The mask of a command's row by fields: all of a field that the row fixes, nothing of a register field its form
uses (30_encoding.md R87). -/
def maskFields : Instr → Fields
  | .adc | .muladd => ⟨.allOnes 8, .allOnes 4, .allOnes 4, .allOnes 4, .allOnes 44⟩
  | .add .. | .sub .. | .mul .. => ⟨.allOnes 8, 0, 0, 0, .allOnes 44⟩
  | .pow .. => ⟨.allOnes 8, 0, 0, .allOnes 4, .allOnes 44⟩
  | .parse .. => ⟨.allOnes 8, 0, .allOnes 4, .allOnes 4, .allOnes 44⟩

theorem rowMask_eq_wordOf (i : Instr) : rowMask i = wordOf (maskFields i) := by
  cases i <;> simp only [rowMask, maskFields] <;> decide

theorem rowMatch_eq_wordOf (i : Instr) : rowMatch i = wordOf ⟨(fields i).op, 0, 0, 0, 0⟩ := by
  cases i <;> simp only [rowMatch, fields] <;> decide

/-- The command of `i`'s row whose registers are those of the fields `f`. -/
def Instr.withRegs (f : Fields) : Instr → Instr
  | .adc => .adc
  | .muladd => .muladd
  | .add .. => .add (regOf f.rd) (regOf f.ra) (regOf f.rb)
  | .sub .. => .sub (regOf f.rd) (regOf f.ra) (regOf f.rb)
  | .mul .. => .mul (regOf f.rd) (regOf f.ra) (regOf f.rb)
  | .pow .. => .pow (regOf f.rd) (regOf f.ra)
  | .parse .. => .parse (regOf f.rd)

@[simp] theorem withRegs_fields (i : Instr) : i.withRegs (fields i) = i := by
  cases i <;> rfl

@[simp] theorem rowMatch_withRegs (f : Fields) (i : Instr) : rowMatch (i.withRegs f) = rowMatch i := by
  cases i <;> rfl

@[simp] theorem rowMask_withRegs (f : Fields) (i : Instr) : rowMask (i.withRegs f) = rowMask i := by
  cases i <;> rfl

/-- A word is in a row exactly when it encodes the row's command with the word's own registers. -/
theorem and_rowMask_eq_rowMatch_iff (w : Word) (j : Instr) :
    w &&& rowMask j = rowMatch j ↔ encode (j.withRegs (fieldsOf w)) = w := by
  rw [← fieldsOf_inj, fieldsOf_and, rowMask_eq_wordOf, rowMatch_eq_wordOf, fieldsOf_wordOf, fieldsOf_wordOf,
    eq_comm (a := encode _), ← fieldsOf_inj (v := w), fieldsOf_encode]
  obtain ⟨op, rd, ra, rb, rsv⟩ := fieldsOf w
  cases j <;> simp [Fields.and, maskFields, fields, Instr.withRegs, -BitVec.reduceAllOnes]

/-- Settles O5: in both directions the command is the row's with the word's own registers. -/
theorem decodeAgreesWithMatchAndMask : Obligations.DecodeAgreesWithMatchAndMask := by
  constructor
  · intro w i h
    obtain rfl := decode_eq_some_iff.mp h
    rw [and_rowMask_eq_rowMatch_iff, fieldsOf_encode, withRegs_fields]
  · intro w j h
    exact ⟨j.withRegs (fieldsOf w), decode_eq_some_iff.mpr ((and_rowMask_eq_rowMatch_iff w j).mp h),
      rowMatch_withRegs _ _, rowMask_withRegs _ _⟩

/-! ### Illegal words -/

/-- The decoder and the check of well-formedness test the same fields. -/
theorem isSome_decodeFields (f : Fields) : (decodeFields f).isSome = f.WellFormed := by
  unfold decodeFields Fields.WellFormed formOf
  split_ifs <;> simp_all [Form.unusedZero, imp_iff_not_or, or_assoc]

theorem decode_eq_none_iff (w : Word) : decode w = none ↔ (fieldsOf w).WellFormed = false := by
  rw [← isSome_decodeFields, Option.isSome_eq_false_iff, Option.isNone_iff_eq_none, decode]

theorem formOf_eq_none_iff (op : BitVec 8) :
    formOf op = none ↔ op ∉ [0x01#8, 0x02#8, 0x10#8, 0x11#8, 0x12#8, 0x13#8, 0x20#8] := by
  unfold formOf
  split_ifs <;> simp_all

/-- The three ways to be ill-formed (30_encoding.md R90). -/
theorem wellFormed_eq_false_iff (f : Fields) : f.WellFormed = false ↔
    formOf f.op = none ∨ f.rsv ≠ 0 ∨ ∃ form, formOf f.op = some form ∧ form.unusedZero f = false := by
  unfold Fields.WellFormed
  cases formOf f.op with
  | none => simp
  | some form => simp [imp_iff_not_or]

/-- Settles O6: the decoder's `none` is ill-formedness, which has the three causes. -/
theorem illegalExactlyWhenIllFormed : Obligations.IllegalExactlyWhenIllFormed := by
  intro w
  rw [decode_eq_none_iff, wellFormed_eq_false_iff, formOf_eq_none_iff]

end Sys2Proof
end

section
/-!
PROOFS. What the assembler spells (30_encoding.md R94).
-/

namespace Sys2Proof.Machine

/-- The assembler's only way to a word, `.word64` aside, is through a command's encoding. -/
theorem exists_encode_of_assemble {line : List Char} {w : Word}
    (hraw : (line.takeWhile fun c => c != ' ') ≠ ['.', 'w', 'o', 'r', 'd', '6', '4'])
    (h : assemble line = some w) : ∃ i, encode i = w := by
  simp only [assemble, if_neg hraw] at h
  split at h
  · cases h
  · split at h
    · cases h
    · exact ⟨_, Option.some.inj h⟩

/-- Settles O7: an encoding decodes. -/
theorem assembledCommandsAreLegal : Obligations.AssembledCommandsAreLegal := by
  intro line w hraw h
  obtain ⟨i, hi⟩ := exists_encode_of_assemble hraw h
  exact ⟨i, decode_eq_some_iff.mpr hi⟩

end Sys2Proof.Machine
end

section
/-!
PROOFS. The limb primitives are exact (40_limb_primitives.md R104, R107, R109), the bitwise identity gives the carry
(R106), and ADC and MULADD write what the primitives compute (R105, R108).
-/

namespace Sys2Proof.Machine

/-! ### The limb primitives as arithmetic -/

@[simp] theorem adc_sum_toNat (a b : Limb) (cin : BitVec 1) :
    (adc a b cin).1.toNat = (a.toNat + b.toNat + cin.toNat) % 2 ^ 64 :=
  BitVec.toNat_ofNat _ _

/-- The carry is the quotient, since the total is below `2 · 2^64` (40_limb_primitives.md R104). -/
@[simp] theorem adc_carry_toNat (a b : Limb) (cin : BitVec 1) :
    (adc a b cin).2.toNat = (a.toNat + b.toNat + cin.toNat) / 2 ^ 64 := by
  have hcin : cin.toNat < 2 := cin.isLt
  simp only [adc]
  split <;> simp only [BitVec.toNat_ofNat] <;> omega

theorem adc_exact (a b : Limb) (cin : BitVec 1) :
    (adc a b cin).1.toNat + 2 ^ 64 * (adc a b cin).2.toNat = a.toNat + b.toNat + cin.toNat := by
  rw [adc_sum_toNat, adc_carry_toNat, Nat.mod_add_div]

/-- The two halves hold `a · b + acc`: with `n = 2^64 − 1` it is at most `n · n + n` (40_limb_primitives.md R109). -/
theorem mul_add_toNat_le (a b acc : Limb) : a.toNat * b.toNat + acc.toNat ≤ 2 ^ 128 - 2 ^ 64 :=
  Nat.add_le_add (Nat.mul_le_mul (Nat.le_pred_of_lt a.isLt) (Nat.le_pred_of_lt b.isLt)) (Nat.le_pred_of_lt acc.isLt)

@[simp] theorem muladd_low_toNat (a b acc : Limb) :
    (muladd a b acc).1.toNat = (a.toNat * b.toNat + acc.toNat) % 2 ^ 64 :=
  BitVec.toNat_ofNat _ _

@[simp] theorem muladd_high_toNat (a b acc : Limb) :
    (muladd a b acc).2.toNat = (a.toNat * b.toNat + acc.toNat) / 2 ^ 64 := by
  have hle := mul_add_toNat_le a b acc
  exact (BitVec.toNat_ofNat _ _).trans (Nat.mod_eq_of_lt (by omega))

theorem muladd_exact (a b acc : Limb) :
    (muladd a b acc).2.toNat * 2 ^ 64 + (muladd a b acc).1.toNat = a.toNat * b.toNat + acc.toNat := by
  rw [muladd_low_toNat, muladd_high_toNat, Nat.div_add_mod']

/-! ### The bitwise identity (40_limb_primitives.md R106) -/

/-- The identity looks at bit 63 of its operands only. -/
theorem carryIdentity_eq_msb (a b sum : Limb) :
    carryIdentity a b sum = BitVec.ofBool (a.msb && b.msb || (a.msb || b.msb) && !sum.msb) := by
  apply BitVec.eq_of_getLsbD_eq
  intro i hi
  obtain rfl : i = 0 := by omega
  simp [carryIdentity, BitVec.msb_eq_getLsbD_last]

/-- Two operands below `2^63` give no carry, two operands from `2^63` on give one. -/
theorem adc_carry_of_msb_eq {a b : Limb} (h : a.msb = b.msb) (cin : BitVec 1) :
    (adc a b cin).2 = BitVec.ofBool a.msb := by
  have hcin : cin.toNat < 2 := cin.isLt
  apply BitVec.eq_of_toNat_eq
  rw [adc_carry_toNat, BitVec.toNat_ofBool]
  cases ha : a.msb with
  | false =>
    have hal := BitVec.msb_eq_false_iff_two_mul_lt.mp ha
    have hbl := BitVec.msb_eq_false_iff_two_mul_lt.mp (h.symm.trans ha)
    simp only [Bool.toNat_false]
    omega
  | true =>
    have hag := BitVec.msb_eq_true_iff_two_mul_ge.mp ha
    have hbg := BitVec.msb_eq_true_iff_two_mul_ge.mp (h.symm.trans ha)
    simp only [Bool.toNat_true]
    omega

/-- With bit 63 in one operand only, the total lies in `[2^63, 2^63 + 2^64)`: a carry takes bit 63 out of the sum. -/
theorem adc_carry_of_msb_ne {a b : Limb} (h : a.msb ≠ b.msb) (cin : BitVec 1) :
    (adc a b cin).2 = BitVec.ofBool (!(adc a b cin).1.msb) := by
  have hcin : cin.toNat < 2 := cin.isLt
  have htop : (2 ^ 64 ≤ 2 * a.toNat ∧ 2 * b.toNat < 2 ^ 64) ∨ (2 * a.toNat < 2 ^ 64 ∧ 2 ^ 64 ≤ 2 * b.toNat) := by
    rw [ne_eq, Bool.eq_iff_iff, BitVec.msb_eq_true_iff_two_mul_ge, BitVec.msb_eq_true_iff_two_mul_ge] at h
    omega
  apply BitVec.eq_of_toNat_eq
  rw [adc_carry_toNat, BitVec.toNat_ofBool]
  cases hs : (adc a b cin).1.msb with
  | false =>
    have hsl := BitVec.msb_eq_false_iff_two_mul_lt.mp hs
    rw [adc_sum_toNat] at hsl
    simp only [Bool.not_false, Bool.toNat_true]
    omega
  | true =>
    have hsg := BitVec.msb_eq_true_iff_two_mul_ge.mp hs
    rw [adc_sum_toNat] at hsg
    simp only [Bool.not_true, Bool.toNat_false]
    omega

theorem carryIdentity_adc (a b : Limb) (cin : BitVec 1) :
    carryIdentity a b (adc a b cin).1 = (adc a b cin).2 := by
  rw [carryIdentity_eq_msb]
  by_cases h : a.msb = b.msb
  · rw [adc_carry_of_msb_eq h, ← h]
    cases a.msb <;> simp
  · rw [adc_carry_of_msb_ne h]
    have hb : b.msb = !a.msb := Bool.eq_not.mpr (Ne.symm h)
    simp [hb]

/-- Settles O23: quotient and remainder of the total, and `carryIdentity_adc`. -/
theorem adcKeepsTheOverflowBit : Obligations.AdcKeepsTheOverflowBit := by
  intro a b cin
  have hcin : cin.toNat < 2 := cin.isLt
  refine ⟨adc_sum_toNat a b cin, ?_, adc_exact a b cin, carryIdentity_adc a b cin⟩
  rw [adc_carry_toNat]
  split <;> omega

/-! ### The largest high half (40_limb_primitives.md R109) -/

/-- Both summands of the largest total are at their bound, and so are both factors. -/
theorem mul_add_toNat_eq_max_iff (a b acc : Limb) :
    a.toNat * b.toNat + acc.toNat = 2 ^ 128 - 2 ^ 64 ↔
      a.toNat = 2 ^ 64 - 1 ∧ b.toNat = 2 ^ 64 - 1 ∧ acc.toNat = 2 ^ 64 - 1 := by
  have ha : a.toNat ≤ 2 ^ 64 - 1 := Nat.le_pred_of_lt a.isLt
  have hb : b.toNat ≤ 2 ^ 64 - 1 := Nat.le_pred_of_lt b.isLt
  have hacc : acc.toNat ≤ 2 ^ 64 - 1 := Nat.le_pred_of_lt acc.isLt
  constructor
  · intro h
    obtain ⟨hmul, hacc'⟩ := (add_eq_add_iff_eq_and_eq (Nat.mul_le_mul ha hb) hacc).mp h
    have hpos : 0 < a.toNat * b.toNat := by omega
    obtain ⟨ha', hb'⟩ := (mul_eq_mul_iff_eq_and_eq_of_pos ha hb (Nat.pos_of_mul_pos_right hpos) (by decide)).mp hmul
    exact ⟨ha', hb', hacc'⟩
  · rintro ⟨ha', hb', hacc'⟩
    rw [ha', hb', hacc']
    rfl

theorem muladd_high_eq_max_iff (a b acc : Limb) :
    (muladd a b acc).2.toNat = 2 ^ 64 - 1 ↔ a.toNat * b.toNat + acc.toNat = 2 ^ 128 - 2 ^ 64 := by
  have hle := mul_add_toNat_le a b acc
  rw [muladd_high_toNat]
  omega

/-- Settles O24: the high half is largest only at the largest total, whose low half is 0. -/
theorem muladdLosesNoBit : Obligations.MuladdLosesNoBit := by
  intro a b acc
  refine ⟨mul_add_toNat_le a b acc, muladd_low_toNat a b acc, muladd_high_toNat a b acc, muladd_exact a b acc,
    (muladd_high_eq_max_iff a b acc).trans (mul_add_toNat_eq_max_iff a b acc), fun hmax => ?_, fun hne => ?_⟩
  · have htotal := (muladd_high_eq_max_iff a b acc).mp hmax
    apply BitVec.eq_of_toNat_eq
    rw [muladd_low_toNat, htotal]
    rfl
  · have hlt := (muladd a b acc).2.isLt
    omega

/-! ### ADC and MULADD -/

theorem State.wroteScalars_complete (s : State) (lo hi : Word) :
    s.WroteScalars (s.complete (.scalars lo hi)) lo hi where
  ended := ⟨rfl, rfl, rfl, rfl⟩
  slo := rfl
  shi := rfl
  control := s.complete_draws (.scalars lo hi) ▸ s.keepsControl_complete (.scalars lo hi) s.draws
  numbers _ _ := rfl

/-- Settles O25: the carry keeps its value when it is widened to SHI. -/
theorem adcWritesSumAndCarry : Obligations.AdcWritesSumAndCarry := by
  intro s
  refine ⟨_, exec_adc s, s.wroteScalars_complete _ _, adc_sum_toNat _ _ _, ?_⟩
  exact (BitVec.toNat_setWidth_of_le (by decide)).trans (adc_carry_toNat _ _ _)

/-- Settles O26: `muladd_exact` on the scalar operands. -/
theorem muladdWritesLowAndHigh : Obligations.MuladdWritesLowAndHigh := fun s =>
  ⟨_, exec_muladd s, s.wroteScalars_complete _ _, muladd_exact s.sa s.sb s.sacc⟩

end Sys2Proof.Machine
end

section
/-!
PROOFS. The text function `parse`: which bytes are hex digits, the number a digit string spells, the place of the first
byte that is no hex digit, and the value of the limbs built from the groups (41_parse.md R116, R117).
-/

namespace Sys2Proof.Machine

/-! ### Hex digits (41_parse.md R116) -/

theorem hexval_decimal {c : Byte} (h1 : 0x30 ≤ c.toNat) (h2 : c.toNat ≤ 0x39) : hexval c = some (c.toNat - 0x30) :=
  if_pos ⟨h1, h2⟩

theorem hexval_upper {c : Byte} (h1 : 0x41 ≤ c.toNat) (h2 : c.toNat ≤ 0x46) :
    hexval c = some (c.toNat - 0x41 + 10) := by
  rw [hexval, if_neg (by omega), if_pos ⟨h1, h2⟩]

theorem hexval_lower {c : Byte} (h1 : 0x61 ≤ c.toNat) (h2 : c.toNat ≤ 0x66) :
    hexval c = some (c.toNat - 0x61 + 10) := by
  rw [hexval, if_neg (by omega), if_neg (by omega), if_pos ⟨h1, h2⟩]

theorem hexval_outside {c : Byte} (h : c.toNat < 0x30 ∨ (0x39 < c.toNat ∧ c.toNat < 0x41) ∨
    (0x46 < c.toNat ∧ c.toNat < 0x61) ∨ 0x66 < c.toNat) : hexval c = none := by
  rw [hexval, if_neg (by omega), if_neg (by omega), if_neg (by omega)]

/-- A digit is below the base; a byte that is no digit counts as 0 in `digitsFrom`. -/
theorem hexval_getD_lt (c : Byte) : (hexval c).getD 0 < 16 := by
  unfold hexval
  split_ifs <;> simp only [Option.getD_some, Option.getD_none] <;> omega

/-! ### The number a digit string spells -/

theorem digitsFrom_append (acc : Nat) (t u : List Byte) :
    digitsFrom acc (t ++ u) = digitsFrom (digitsFrom acc t) u := by
  induction t generalizing acc with
  | nil => rfl
  | cons c t ih => exact ih _

/-- What stands before a digit string counts at the place above it. -/
theorem digitsFrom_eq_add (acc : Nat) (t : List Byte) : digitsFrom acc t = acc * 16 ^ t.length + digitsFrom 0 t := by
  induction t generalizing acc with
  | nil => simp [digitsFrom]
  | cons c t ih =>
    rw [digitsFrom, digitsFrom, ih, ih (0 * 16 + _), List.length_cons]
    ring

theorem digitsFrom_lt (t : List Byte) : digitsFrom 0 t < 16 ^ t.length := by
  induction t with
  | nil => simp [digitsFrom]
  | cons c t ih =>
    have hc : (hexval c).getD 0 + 1 ≤ 16 := hexval_getD_lt c
    calc digitsFrom 0 (c :: t) = (hexval c).getD 0 * 16 ^ t.length + digitsFrom 0 t := by
          rw [digitsFrom, digitsFrom_eq_add, Nat.zero_mul, Nat.zero_add]
      _ < (hexval c).getD 0 * 16 ^ t.length + 16 ^ t.length := Nat.add_lt_add_left ih _
      _ = ((hexval c).getD 0 + 1) * 16 ^ t.length := (Nat.succ_mul _ _).symm
      _ ≤ 16 * 16 ^ t.length := Nat.mul_le_mul_right _ hc
      _ = 16 ^ (c :: t).length := (Nat.pow_succ').symm

/-! ### The first byte that is no hex digit -/

theorem firstBad_eq_findIdx? (i : Nat) (t : List Byte) :
    firstBad i t = (t.findIdx? fun c => (hexval c).isNone).map (i + ·) := by
  induction t generalizing i with
  | nil => rfl
  | cons c t ih =>
    rw [firstBad, List.findIdx?_cons]
    split
    · rfl
    · rw [ih, Option.map_map]
      congr 1
      funext k
      simp only [Function.comp_apply]
      omega

theorem firstBad_zero (t : List Byte) : firstBad 0 t = t.findIdx? fun c => (hexval c).isNone := by
  simp [firstBad_eq_findIdx?]

theorem firstBad_eq_none_iff (t : List Byte) : firstBad 0 t = none ↔ ∀ c ∈ t, (hexval c).isSome := by
  simp [firstBad_zero, Option.isSome_iff_ne_none]

/-- The index reported is the least one of a byte that is no hex digit (41_parse.md R122). -/
theorem firstBad_eq_some_iff (t : List Byte) (i : Nat) :
    firstBad 0 t = some i ↔
      ∃ h : i < t.length, hexval t[i] = none ∧ ∀ j, ∀ hj : j < i, (hexval (t[j]'(hj.trans h))).isSome := by
  simp [firstBad_zero, List.findIdx?_eq_some_iff_getElem, Option.isSome_iff_ne_none]

theorem firstBad_append_cons {good : List Byte} {c : Byte} (rest : List Byte)
    (hgood : ∀ d ∈ good, (hexval d).isSome) (hc : hexval c = none) :
    firstBad 0 (good ++ c :: rest) = some good.length := by
  rw [firstBad_eq_some_iff]
  refine ⟨by simp, by simpa using hc, fun j hj => ?_⟩
  rw [List.getElem_append_left hj]
  exact hgood _ (List.getElem_mem hj)

theorem parse_of_firstBad_none {t : List Byte} (h : firstBad 0 t = none) : parse t = .ok (limbsOfText t) := by
  rw [parse, h]

theorem parse_of_firstBad_some {t : List Byte} {i : Nat} (h : firstBad 0 t = some i) :
    parse t = .error (.parse i) := by
  rw [parse, h]

/-! ### The limbs of a text -/

/-- Group 0 of a text is its last 16 bytes, or the whole of a shorter one. -/
theorem group_zero (t : List Byte) : group t 0 = t.drop (t.length - 16) := by
  simp [group]

/-- The groups above group 0 are those of the text before its last 16 bytes. -/
theorem group_succ (t : List Byte) (g : Nat) : group t (g + 1) = group (t.take (t.length - 16)) g := by
  simp only [group, List.take_take, List.length_take]
  congr 1
  · omega
  · congr 1
    omega

theorem groupCount_eq_succ {t : List Byte} (h : t ≠ []) :
    groupCount t = groupCount (t.take (t.length - 16)) + 1 := by
  have hpos : 0 < t.length := List.length_pos_iff.mpr h
  simp only [groupCount, List.length_take]
  omega

/-- The last 16 bytes make the lowest limb and the text before them makes the others. -/
theorem limbsOfText_eq_cons {t : List Byte} (h : t ≠ []) :
    limbsOfText t =
      BitVec.ofNat 64 (digitsFrom 0 (t.drop (t.length - 16))) :: limbsOfText (t.take (t.length - 16)) := by
  simp only [limbsOfText, groupCount_eq_succ h, List.range_succ_eq_map, List.map_cons, List.map_map, group_zero]
  congr 2
  funext g
  rw [Function.comp_apply, group_succ]

/-- Sixteen digits fit one limb (41_parse.md R117). -/
theorem digitsFrom_lt_limb {t : List Byte} (h : t.length ≤ 16) : digitsFrom 0 t < 2 ^ 64 :=
  calc digitsFrom 0 t < 16 ^ t.length := digitsFrom_lt t
    _ ≤ 16 ^ 16 := Nat.pow_le_pow_right (by decide) h
    _ = 2 ^ 64 := by norm_num

/-- The text before the last 16 bytes counts at the place of a whole limb: it is empty, or 16 bytes follow it. -/
theorem digitsFrom_split_last (t : List Byte) :
    digitsFrom 0 t =
      digitsFrom 0 (t.drop (t.length - 16)) + 2 ^ 64 * digitsFrom 0 (t.take (t.length - 16)) := by
  conv_lhs => rw [← List.take_append_drop (t.length - 16) t, digitsFrom_append, digitsFrom_eq_add]
  obtain hshort | hlong := Nat.le_total t.length 16
  · simp [Nat.sub_eq_zero_of_le hshort, digitsFrom]
  · have hlast : (t.drop (t.length - 16)).length = 16 := by rw [List.length_drop]; omega
    rw [hlast]
    ring

theorem val_limbsOfText (t : List Byte) : val (limbsOfText t) = digitsFrom 0 t := by
  by_cases h : t = []
  · subst h
    rfl
  · have hpos : 0 < t.length := List.length_pos_iff.mpr h
    have hlast : (t.drop (t.length - 16)).length ≤ 16 := by rw [List.length_drop]; omega
    rw [limbsOfText_eq_cons h, val, val_limbsOfText (t.take (t.length - 16)), BitVec.toNat_ofNat,
      Nat.mod_eq_of_lt (digitsFrom_lt_limb hlast), ← digitsFrom_split_last]
termination_by t.length
decreasing_by rw [List.length_take]; omega

/-- Settles O40: `firstBad` decides between the two ends of `parse`, and `val_limbsOfText` gives the value. -/
theorem parseSpellsTheNumber : Obligations.ParseSpellsTheNumber := by
  refine ⟨fun c => ⟨hexval_decimal, hexval_upper, hexval_lower, hexval_outside⟩, fun t hgood => ?_,
    fun good c rest hgood hc => parse_of_firstBad_some (firstBad_append_cons rest hgood hc)⟩
  exact ⟨limbsOfText t, parse_of_firstBad_none ((firstBad_eq_none_iff t).mpr hgood), limbsOfText_length t,
    val_limbsOfText t⟩

end Sys2Proof.Machine
end

section
/-!
PROOFS. The command PARSE: CAPACITY before any byte, then `parse` on the text as one consultation finds it, and nothing
written but the destination and STATUS (41_parse.md R115, R121).
-/

namespace Sys2Proof.Machine

/-! ### What a completion writes, by how the rule ended -/

theorem State.raised_complete (s : State) (e : CmdError) (d : Nat) :
    s.Raised { s.complete (.error e) with draws := d } e.code e.info where
  ended := ⟨rfl, rfl, rfl, rfl⟩
  control := s.keepsControl_complete (.error e) d
  numbers _ _ := rfl
  scalars := ⟨rfl, rfl⟩

theorem State.wroteNumber_complete (s : State) (rd : Reg) (n : List Limb) (d : Nat) :
    s.WroteNumber { s.complete (.number rd n) with draws := d } rd n where
  ended := ⟨rfl, rfl, rfl, rfl⟩
  result := s.num_setNum_same rd n
  control := s.keepsControl_complete (.number rd n) d
  numbers r hr := s.num_setNum_other n (by simpa using hr)
  scalars := ⟨rfl, rfl⟩

/-! ### The three ends of PARSE -/

theorem exec_parse_of_tooLong {s : State} (rd : Reg) (hlong : s.maxText < s.textLen.toNat) :
    ∃ u, exec (.parse rd) s = .next u ∧ s.Raised u .capacity 0 := by
  have hrule : parseRule rd s = .error .capacity := if_pos hlong
  rw [exec_parse, hrule]
  exact ⟨_, rfl, s.raised_complete .capacity _⟩

theorem exec_parse_of_firstBad_some {s : State} (rd : Reg) {i : Nat} (hfit : s.textLen.toNat ≤ s.maxText)
    (hbad : firstBad 0 (s.textOf s.textLen.toNat) = some i) :
    ∃ u, exec (.parse rd) s = .next u ∧ s.Raised u .parse (BitVec.ofNat 32 i) := by
  have hrule : parseRule rd s = .error (.parse i) := by
    simp only [parseRule, if_neg (Nat.not_lt.mpr hfit), parse_of_firstBad_some hbad]
  rw [exec_parse, hrule]
  exact ⟨_, rfl, s.raised_complete (.parse i) _⟩

theorem exec_parse_of_firstBad_none {s : State} (rd : Reg) (hfit : s.textLen.toNat ≤ s.maxText)
    (hgood : firstBad 0 (s.textOf s.textLen.toNat) = none) :
    ∃ u, exec (.parse rd) s = .next u ∧ s.WroteNumber u rd (limbsOfText (s.textOf s.textLen.toNat)) := by
  have hrule : parseRule rd s = .number rd (limbsOfText (s.textOf s.textLen.toNat)) := by
    simp only [parseRule, if_neg (Nat.not_lt.mpr hfit), parse_of_firstBad_none hgood]
  rw [exec_parse, hrule]
  exact ⟨_, rfl, s.wroteNumber_complete rd _ _⟩

/-! ### The text PARSE runs on -/

/-- The text a consultation finds has every written byte at its place. -/
theorem State.textOf_getElem?_written {s : State} {t k : Nat} {b : Byte} (hk : k < t)
    (h : Memory.read s.text k = some b) : (s.textOf t)[k]? = some b := by
  simp [State.textOf, hk, State.textByte_written h]

/-- Settles O41: the text read is the one written, so it has no bad byte. -/
theorem parseWritesTheNumber : Obligations.ParseWritesTheNumber := by
  intro s rd t hlen hfit hwritten hgood
  have htext : s.textOf s.textLen.toNat = t := hlen ▸ State.textOf_written hwritten
  obtain ⟨u, hexec, hwrote⟩ := exec_parse_of_firstBad_none rd (hlen ▸ hfit)
    (htext.symm ▸ (firstBad_eq_none_iff t).mpr hgood)
  rw [htext] at hwrote
  exact ⟨u, limbsOfText t, hexec, hwrote, limbsOfText_length t, val_limbsOfText t⟩

/-- Settles O42: the text read is the one written, and `firstBad` finds its least bad index. -/
theorem parseRaisesParseError : Obligations.ParseRaisesParseError := by
  intro s rd t i hi hlen hfit hwritten hbad hbefore
  have htext : s.textOf s.textLen.toNat = t := hlen ▸ State.textOf_written hwritten
  exact exec_parse_of_firstBad_some rd (hlen ▸ hfit)
    (htext.symm ▸ (firstBad_eq_some_iff t i).mpr ⟨hi, hbad, hbefore⟩)

/-- Settles O43: a text that fits ends with PARSE, or with a number within MAX_LIMBS. -/
theorem parseChecksCapacityFirst : Obligations.ParseChecksCapacityFirst := by
  refine ⟨fun s rd => exec_parse_of_tooLong rd, fun s t rd hfit hexec => ?_⟩
  cases hbad : firstBad 0 (s.textOf s.textLen.toNat) with
  | some i =>
    obtain ⟨u, hu, hraised⟩ := exec_parse_of_firstBad_some rd hfit hbad
    obtain rfl : u = t := Host.Outcome.next.inj (hu.symm.trans hexec)
    simp [hraised.ended.errCode]
  | none =>
    obtain ⟨u, hu, hwrote⟩ := exec_parse_of_firstBad_none rd hfit hbad
    obtain rfl : u = t := Host.Outcome.next.inj (hu.symm.trans hexec)
    refine ⟨by simp [hwrote.ended.errCode], fun _ => ?_⟩
    rw [State.maxText] at hfit
    rw [hwrote.result, NumReg.len, limbsOfText_length, State.textOf_length]
    omega

/-- Settles O60: the text is the one this consultation finds. -/
theorem parseRunsWhateverIsWritten : Obligations.ParseRunsWhateverIsWritten := by
  intro s rd hfit
  have hlen : (s.textOf s.textLen.toNat).length = s.textLen.toNat := s.textOf_length _
  cases hbad : firstBad 0 (s.textOf s.textLen.toNat) with
  | some i =>
    obtain ⟨u, hexec, hraised⟩ := exec_parse_of_firstBad_some rd hfit hbad
    obtain ⟨hi, hnone, hbefore⟩ := (firstBad_eq_some_iff _ i).mp hbad
    refine ⟨_, u, hlen, fun k b hk => State.textOf_getElem?_written (hk.trans_eq hlen), hexec,
      .inr ⟨i, _, hraised, List.getElem?_eq_getElem hi, hnone, fun j d hj hd => ?_⟩⟩
    obtain ⟨_, rfl⟩ := List.getElem?_eq_some_iff.mp hd
    exact hbefore j hj
  | none =>
    obtain ⟨u, hexec, hwrote⟩ := exec_parse_of_firstBad_none rd hfit hbad
    exact ⟨_, u, hlen, fun k b hk => State.textOf_getElem?_written (hk.trans_eq hlen), hexec,
      .inl ⟨_, hwrote, limbsOfText_length _, val_limbsOfText _, (firstBad_eq_none_iff _).mp hbad⟩⟩

end Sys2Proof.Machine
end

section
/-!
PROOFS. FormatHex spells the value of a number in as many digits as its limbs hold and strips the leading zeros, so that
it depends on the value only and gives a parsed text back (41_parse.md R128, R129, R130).
-/

namespace Sys2Proof.Machine

/-! ### The spelling of a number -/

theorem hexDigit_eq_zero_iff {n : Nat} (h : n < 16) : hexDigit n = 0x30#8 ↔ n = 0 := by
  have hall : ∀ m < 16, hexDigit m = 0x30#8 ↔ m = 0 := by decide
  exact hall n h

/-- The spelling is that of the high part followed by that of the low part. -/
theorem spell_add (a b v : Nat) {w : Nat} (h : w < 16 ^ b) :
    spell (a + b) (v * 16 ^ b + w) = spell a v ++ spell b w := by
  induction b generalizing w with
  | zero =>
    obtain rfl : w = 0 := by simpa using h
    simp [spell]
  | succ b ih =>
    rw [Nat.pow_succ] at h ⊢
    have hhigh : (v * 16 ^ b * 16 + w) / 16 = v * 16 ^ b + w / 16 := by omega
    have hlow : (v * 16 ^ b * 16 + w) % 16 = w % 16 := by omega
    rw [← Nat.mul_assoc, ← Nat.add_assoc, spell, hhigh, hlow, ih (by omega), spell, List.append_assoc]

/-- Only 0 is spelled in zeros alone. -/
theorem spell_all_zero_iff (n : Nat) {v : Nat} (h : v < 16 ^ n) : (∀ c ∈ spell n v, c = 0x30#8) ↔ v = 0 := by
  induction n generalizing v with
  | zero => simpa [spell] using h
  | succ n ih =>
    rw [Nat.pow_succ] at h
    simp only [spell, List.forall_mem_append, List.forall_mem_singleton, ih (by omega : v / 16 < 16 ^ n),
      hexDigit_eq_zero_iff (Nat.mod_lt v (by decide))]
    omega

theorem val_lt (n : List Limb) : val n < 16 ^ (16 * n.length) := by
  induction n with
  | nil => simp [val]
  | cons l ls ih =>
    have hl : l.toNat < 2 ^ 64 := l.isLt
    have hpow : 16 ^ (16 * (ls.length + 1)) = 2 ^ 64 * 16 ^ (16 * ls.length) := by
      rw [Nat.mul_succ, Nat.pow_add, Nat.mul_comm]
      norm_num
    rw [val, List.length_cons, hpow]
    omega

/-- The limbs' spellings together are the spelling of the value. -/
theorem spellLimbs_eq_spell (n : List Limb) : spellLimbs n = spell (16 * n.length) (val n) := by
  induction n with
  | nil => rfl
  | cons l ls ih =>
    have hl : l.toNat < 16 ^ 16 := l.isLt.trans_eq (by norm_num)
    have hval : val (l :: ls) = val ls * 16 ^ 16 + l.toNat := by rw [val]; omega
    rw [spellLimbs, ih, hval, List.length_cons, Nat.mul_succ, spell_add _ _ _ hl]

/-! ### Stripping the leading zeros -/

/-- What FormatHex does to the spelled text (41_parse.md R128). -/
def stripZeros (t : List Byte) : List Byte := t.dropWhile fun c => c == 0x30#8

theorem formatHex_eq_stripZeros (n : List Limb) : formatHex n = stripZeros (spell (16 * n.length) (val n)) := by
  rw [← spellLimbs_eq_spell]
  rfl

theorem stripZeros_eq_nil_iff (t : List Byte) : stripZeros t = [] ↔ ∀ c ∈ t, c = 0x30#8 := by
  simp [stripZeros]

theorem stripZeros_of_head {t : List Byte} (h : t.head? ≠ some 0x30#8) : stripZeros t = t := by
  cases t with
  | nil => rfl
  | cons c t => simpa [stripZeros] using h

/-- More digits than a number needs are leading zeros. -/
theorem stripZeros_spell_of_le {m n v : Nat} (hmn : m ≤ n) (h : v < 16 ^ m) :
    stripZeros (spell n v) = stripZeros (spell m v) := by
  obtain ⟨k, rfl⟩ := Nat.exists_eq_add_of_le' hmn
  have hzeros : ∀ c ∈ spell k 0, c = 0x30#8 := (spell_all_zero_iff k (by positivity)).mpr rfl
  have hsplit : spell (k + m) v = spell k 0 ++ spell m v := by simpa using spell_add k m 0 h
  rw [hsplit, stripZeros, List.dropWhile_append_of_pos (by simpa using hzeros), stripZeros]

/-- Any number of digits that holds the value gives FormatHex of the number. -/
theorem formatHex_eq_of_lt (n : List Limb) {m : Nat} (h : val n < 16 ^ m) :
    formatHex n = stripZeros (spell m (val n)) := by
  rw [formatHex_eq_stripZeros, ← stripZeros_spell_of_le (Nat.le_add_right (16 * n.length) m) (val_lt n),
    stripZeros_spell_of_le (Nat.le_add_left m (16 * n.length)) h]

/-- Settles O44: a text strips to nothing exactly when it spells 0. -/
theorem zeroFormatsToTheEmptyText : Obligations.ZeroFormatsToTheEmptyText := by
  intro n
  rw [formatHex_eq_stripZeros, stripZeros_eq_nil_iff, spell_all_zero_iff _ (val_lt n)]

/-! ### The round trip -/

/-- The code of an upper-case hex digit (41_parse.md R116). -/
def UpperHex (c : Byte) : Prop := (0x30 ≤ c.toNat ∧ c.toNat ≤ 0x39) ∨ (0x41 ≤ c.toNat ∧ c.toNat ≤ 0x46)

theorem UpperHex.hexval_isSome {c : Byte} (h : UpperHex c) : (hexval c).isSome := by
  obtain ⟨h1, h2⟩ | ⟨h1, h2⟩ := h
  · rw [hexval_decimal h1 h2, Option.isSome_some]
  · rw [hexval_upper h1 h2, Option.isSome_some]

theorem UpperHex.hexDigit_hexval {c : Byte} (h : UpperHex c) : hexDigit ((hexval c).getD 0) = c := by
  apply BitVec.eq_of_toNat_eq
  obtain ⟨h1, h2⟩ | ⟨h1, h2⟩ := h
  · rw [hexval_decimal h1 h2, Option.getD_some, hexDigit, if_pos (by omega), BitVec.toNat_ofNat]
    omega
  · rw [hexval_upper h1 h2, Option.getD_some, hexDigit, if_neg (by omega), BitVec.toNat_ofNat]
    omega

/-- An upper-case text is the spelling, in as many digits, of the number it spells. -/
theorem spell_digitsFrom {t : List Byte} (h : ∀ c ∈ t, UpperHex c) : spell t.length (digitsFrom 0 t) = t := by
  induction t using List.reverseRecOn with
  | nil => rfl
  | append_singleton t c ih =>
    simp only [List.forall_mem_append, List.forall_mem_singleton] at h
    obtain ⟨ht, hc⟩ := h
    have hlt : (hexval c).getD 0 < 16 := hexval_getD_lt c
    have hone : spell 1 ((hexval c).getD 0) = [c] := by
      rw [spell, spell, Nat.mod_eq_of_lt hlt, hc.hexDigit_hexval, List.nil_append]
    rw [digitsFrom_append, digitsFrom, digitsFrom, List.length_append, List.length_singleton]
    exact (spell_add t.length 1 (digitsFrom 0 t) hlt).trans (by rw [ih ht, hone])

/-- Settles O45: FormatHex spells the value in any sufficient number of digits, here the text's own length, and for two
numbers of one value the digits of either. -/
theorem formatOfParseIsIdentity : Obligations.FormatOfParseIsIdentity := by
  refine ⟨fun h _ hhead hupper => ⟨limbsOfText h, parse_of_firstBad_none ?_, ?_⟩, fun a b hab => ?_⟩
  · exact (firstBad_eq_none_iff h).mpr fun c hc => UpperHex.hexval_isSome (hupper c hc)
  · rw [formatHex_eq_of_lt _ (val_limbsOfText h ▸ digitsFrom_lt h), val_limbsOfText, spell_digitsFrom hupper,
      stripZeros_of_head hhead]
  · rw [formatHex_eq_stripZeros b, ← hab]
    exact formatHex_eq_of_lt a (hab ▸ val_lt b)

end Sys2Proof.Machine
end

section
/-!
PROOFS. The value of a limb sequence (00_scope.md R13), and the chain of `adc` as arithmetic on values: quotient and
remainder of the total by 2^(64·n) (42_add_sub.md R136, R143).
-/

namespace Sys2Proof.Machine

/-! ### The value of a limb sequence -/

/-- One limb more multiplies the modulus by `2^64`. -/
theorem two_pow_limbs_succ (n : Nat) : 2 ^ (64 * (n + 1)) = 2 ^ 64 * 2 ^ (64 * n) := by
  rw [Nat.mul_succ, Nat.pow_add, Nat.mul_comm]

theorem val_lt_two_pow (n : List Limb) : val n < 2 ^ (64 * n.length) := by
  have hpow : 16 ^ (16 * n.length) = 2 ^ (64 * n.length) := by
    rw [Nat.pow_mul, Nat.pow_mul]
  exact hpow ▸ val_lt n

theorem val_append (a b : List Limb) : val (a ++ b) = val a + 2 ^ (64 * a.length) * val b := by
  induction a with
  | nil => simp [val]
  | cons l ls ih =>
    rw [List.cons_append, val, ih, val, List.length_cons, two_pow_limbs_succ, Nat.mul_assoc]
    omega

@[simp] theorem val_replicate_zero (n : Nat) : val (List.replicate n 0) = 0 := by
  induction n with
  | zero => rfl
  | succ n ih => rw [List.replicate_succ, val, ih]; rfl

/-- A limb sequence is determined by its length and its value. -/
theorem eq_of_val_eq {a b : List Limb} (hlen : a.length = b.length) (hval : val a = val b) : a = b := by
  induction a generalizing b with
  | nil => exact (List.length_eq_zero_iff.mp hlen.symm).symm
  | cons l ls ih =>
    cases b with
    | nil => cases hlen
    | cons m ms =>
      have hl : l.toNat < 2 ^ 64 := l.isLt
      have hm : m.toNat < 2 ^ 64 := m.isLt
      rw [val, val] at hval
      obtain rfl : l = m := BitVec.eq_of_toNat_eq (by omega)
      rw [ih (Nat.succ.inj hlen) (by omega)]

/-- Padding appends zero limbs. -/
theorem padded_eq_append {n : Nat} {a : List Limb} (h : a.length ≤ n) :
    padded n a = a ++ List.replicate (n - a.length) 0 := by
  apply List.ext_getElem
  · simp [h]
  · intro k _ _
    by_cases hk : k < a.length
    · simp [padded, limbAt, hk]
    · simp [padded, limbAt, hk, List.getElem_append_right (Nat.not_lt.mp hk)]

theorem val_padded {n : Nat} {a : List Limb} (h : a.length ≤ n) : val (padded n a) = val a := by
  rw [padded_eq_append h, val_append, val_replicate_zero, Nat.mul_zero, Nat.add_zero]

/-- A sequence and its complement add up to all ones. -/
theorem val_map_not (a : List Limb) : val (a.map fun l => ~~~ l) + val a + 1 = 2 ^ (64 * a.length) := by
  induction a with
  | nil => rfl
  | cons l ls ih =>
    have hl : l.toNat < 2 ^ 64 := l.isLt
    rw [List.map_cons, val, val, List.length_cons, two_pow_limbs_succ, ← ih, BitVec.toNat_not]
    omega

/-! ### The chain -/

theorem adcChain_exact {as bs : List Limb} (h : as.length = bs.length) (c : BitVec 1) :
    val (adcChain as bs c).1 + 2 ^ (64 * as.length) * (adcChain as bs c).2.toNat = val as + val bs + c.toNat := by
  induction as generalizing bs c with
  | nil =>
    obtain rfl := List.length_eq_zero_iff.mp h.symm
    simp [adcChain, val]
  | cons a as ih =>
    cases bs with
    | nil => cases h
    | cons b bs =>
      have hhead := adc_exact a b c
      have hrest := ih (Nat.succ.inj h) (adc a b c).2
      simp only [adcChain, val, List.length_cons]
      rw [two_pow_limbs_succ, Nat.mul_assoc]
      omega

theorem adcChain_val_lt {as bs : List Limb} (h : as.length = bs.length) (c : BitVec 1) :
    val (adcChain as bs c).1 < 2 ^ (64 * as.length) := by
  have hlt := val_lt_two_pow (adcChain as bs c).1
  rwa [adcChain_length, ← h, Nat.min_self] at hlt

/-- The last carry is 1 exactly when the total does not fit into the chain's limbs. -/
theorem adcChain_carry_eq_one_iff {as bs : List Limb} (h : as.length = bs.length) (c : BitVec 1) :
    (adcChain as bs c).2 = 1#1 ↔ 2 ^ (64 * as.length) ≤ val as + val bs + c.toNat := by
  have hexact := adcChain_exact h c
  have hlt := adcChain_val_lt h c
  obtain hcarry | hcarry := BitVec.eq_zero_or_eq_one (adcChain as bs c).2
  · rw [hcarry, BitVec.toNat_ofNat, Nat.zero_mod, Nat.mul_zero] at hexact
    exact iff_of_false (by simp [hcarry]) (by omega)
  · rw [hcarry, BitVec.toNat_ofNat, Nat.mod_eq_of_lt (by decide), Nat.mul_one] at hexact
    exact iff_of_true hcarry (by omega)

end Sys2Proof.Machine
end

section
/-!
PROOFS. The functions add and sub (42_add_sub.md R136 to R138, R143 to R146), and the commands ADD and SUB with valid
sources (R135, R142).
-/

namespace Sys2Proof.Machine

/-! ### add -/

/-- The chain that `add(A, B)` runs: its limbs and the carry left after the last index. -/
def addChain (a b : List Limb) : List Limb × BitVec 1 :=
  adcChain (padded (max a.length b.length) a) (padded (max a.length b.length) b) 0#1

theorem addChain_exact (a b : List Limb) :
    val (addChain a b).1 + 2 ^ (64 * max a.length b.length) * (addChain a b).2.toNat = val a + val b := by
  have hexact := adcChain_exact (as := padded (max a.length b.length) a) (bs := padded (max a.length b.length) b)
    (by simp) 0#1
  rwa [padded_length, val_padded (Nat.le_max_left _ _), val_padded (Nat.le_max_right _ _)] at hexact

@[simp] theorem addChain_length (a b : List Limb) : (addChain a b).1.length = max a.length b.length := by
  simp [addChain]

theorem addChain_carry_eq_one_iff (a b : List Limb) :
    (addChain a b).2 = 1#1 ↔ 2 ^ (64 * max a.length b.length) ≤ val a + val b := by
  rw [addChain, adcChain_carry_eq_one_iff (by simp), padded_length, val_padded (Nat.le_max_left _ _),
    val_padded (Nat.le_max_right _ _)]
  rfl

theorem addChain_carry_eq_zero {a b : List Limb} (h : val a + val b < 2 ^ (64 * max a.length b.length)) :
    (addChain a b).2 = 0#1 :=
  (BitVec.eq_zero_or_eq_one _).resolve_right (mt (addChain_carry_eq_one_iff a b).mp (Nat.not_le.mpr h))

theorem add_of_lt {a b : List Limb} (h : val a + val b < 2 ^ (64 * max a.length b.length)) :
    add a b = (addChain a b).1 :=
  if_neg (mt (addChain_carry_eq_one_iff a b).mp (Nat.not_le.mpr h))

theorem add_of_le {a b : List Limb} (h : 2 ^ (64 * max a.length b.length) ≤ val a + val b) :
    add a b = (addChain a b).1 ++ [1] :=
  if_pos ((addChain_carry_eq_one_iff a b).mpr h)

/-- The appended limb holds the carry. -/
theorem val_add (a b : List Limb) : val (add a b) = val a + val b := by
  have hexact := addChain_exact a b
  obtain h | h := Nat.lt_or_ge (val a + val b) (2 ^ (64 * max a.length b.length))
  · rw [add_of_lt h]
    simpa [addChain_carry_eq_zero h] using hexact
  · rw [add_of_le h, val_append, addChain_length]
    simpa [(addChain_carry_eq_one_iff a b).mpr h, val] using hexact

theorem add_length (a b : List Limb) :
    (add a b).length =
      max a.length b.length + if val a + val b < 2 ^ (64 * max a.length b.length) then 0 else 1 := by
  split
  case isTrue h => simp [add_of_lt h]
  case isFalse h => simp [add_of_le (Nat.not_lt.mp h)]

/-- Settles O27: the chain's total, the carry included, is `val(A) + val(B)`. -/
theorem addIsExact : Obligations.AddIsExact := val_add

/-- Settles O28: a limb is appended exactly when the sum does not fit. -/
theorem addLengthIsExact : Obligations.AddLengthIsExact := by
  refine fun a b => ⟨fun h => ?_, fun h => ⟨?_, ?_⟩, by decide⟩
  · rw [add_length, if_pos h, Nat.add_zero]
  · rw [add_length, if_neg h]
  · rw [add_of_le (Nat.not_lt.mp h), List.getLast?_concat]

/-- Length and value, which determine the sum, are symmetric in the operands. -/
theorem add_comm_limbs (a b : List Limb) : add a b = add b a := by
  apply eq_of_val_eq
  · rw [add_length, add_length, Nat.max_comm, Nat.add_comm (val a)]
  · rw [val_add, val_add, Nat.add_comm]

/-- Settles O29: both are facts of addition on values. -/
theorem addCommutesAndAssociates : Obligations.AddCommutesAndAssociates := by
  refine ⟨add_comm_limbs, fun a b c => ?_⟩
  rw [val_add, val_add, val_add, val_add, Nat.add_assoc]

/-! ### sub -/

/-- The last carry of `sub(A, B)`, which is discarded (42_add_sub.md R143). -/
def subCarry (a b : List Limb) : BitVec 1 :=
  (adcChain (padded (max a.length b.length) a) ((padded (max a.length b.length) b).map fun l => ~~~ l) 1#1).2

/-- The identity `A − B ≡ A + ~B + 1`, without subtraction and with the discarded carry. -/
theorem sub_exact (a b : List Limb) :
    val (sub a b) + 2 ^ (64 * max a.length b.length) * (subCarry a b).toNat + val b =
      val a + 2 ^ (64 * max a.length b.length) := by
  have hexact := adcChain_exact (as := padded (max a.length b.length) a)
    (bs := (padded (max a.length b.length) b).map fun l => ~~~ l) (by simp) 1#1
  have hnot := val_map_not (padded (max a.length b.length) b)
  rw [padded_length, val_padded (Nat.le_max_left _ _)] at hexact
  rw [padded_length, val_padded (Nat.le_max_right _ _)] at hnot
  rw [sub, subCarry, hexact, ← hnot]
  simp only [BitVec.toNat_ofNat]
  omega

theorem val_sub_lt (a b : List Limb) : val (sub a b) < 2 ^ (64 * max a.length b.length) := by
  simpa using val_lt_two_pow (sub a b)

/-- The two ends of `sub(A, B)`: no borrow and the difference, or a borrow of 2^(64·n). -/
theorem sub_cases (a b : List Limb) :
    (val b ≤ val a ∧ subCarry a b = 1#1 ∧ val (sub a b) = val a - val b) ∨
      (val a < val b ∧ subCarry a b = 0#1 ∧
        val (sub a b) = 2 ^ (64 * max a.length b.length) - (val b - val a)) := by
  have hexact := sub_exact a b
  have hlt := val_sub_lt a b
  obtain hcarry | hcarry := BitVec.eq_zero_or_eq_one (subCarry a b)
  · rw [hcarry, BitVec.toNat_ofNat, Nat.zero_mod, Nat.mul_zero] at hexact
    exact .inr ⟨by omega, hcarry, by omega⟩
  · rw [hcarry, BitVec.toNat_ofNat, Nat.mod_eq_of_lt (by decide), Nat.mul_one] at hexact
    exact .inl ⟨by omega, hcarry, by omega⟩

theorem subCarry_eq_one_iff (a b : List Limb) : subCarry a b = 1#1 ↔ val b ≤ val a := by
  obtain ⟨hle, hcarry, -⟩ | ⟨hlt, hcarry, -⟩ := sub_cases a b
  · exact iff_of_true hcarry hle
  · exact iff_of_false (by simp [hcarry]) (Nat.not_le.mpr hlt)

/-- The value differs from `val(A) − val(B)` by a multiple of the modulus and lies below it. -/
theorem val_sub_emod (a b : List Limb) :
    (val (sub a b) : Int) = ((val a : Int) - (val b : Int)) % (2 ^ (64 * max a.length b.length) : Int) := by
  have hlt : (val (sub a b) : Int) < 2 ^ (64 * max a.length b.length) := by exact_mod_cast val_sub_lt a b
  have hexact : (val (sub a b) : Int) + 2 ^ (64 * max a.length b.length) * (subCarry a b).toNat + val b =
      val a + 2 ^ (64 * max a.length b.length) := by exact_mod_cast sub_exact a b
  have hdiff : (val a : Int) - val b =
      val (sub a b) + 2 ^ (64 * max a.length b.length) * ((subCarry a b).toNat - 1) := by linear_combination -hexact
  rw [hdiff, Int.add_mul_emod_self_left, Int.emod_eq_of_lt (Int.natCast_nonneg _) hlt]

/-- Settles O31: the two cases of `sub_cases`, and the identity modulo 2^(64·n). -/
theorem subWrapsAround : Obligations.SubWrapsAround := by
  refine fun a b => ⟨sub_length a b, val_sub_emod a b, fun h => ?_, subCarry_eq_one_iff a b, fun h => ?_⟩
  · obtain ⟨hle, -, -⟩ | ⟨-, -, hval⟩ := sub_cases a b
    · exact absurd h (Nat.not_lt.mpr hle)
    · exact hval
  · exact List.length_eq_zero_iff.mp ((sub_length a b).trans h)

theorem val_sub_self (a : List Limb) : val (sub a a) = 0 := by
  obtain ⟨-, -, hval⟩ | ⟨hlt, -, -⟩ := sub_cases a a
  · exact hval.trans (Nat.sub_self _)
  · exact absurd hlt (Nat.lt_irrefl _)

/-- Settles O32: zero limbs are the sequence of value 0, which formats to the empty text. -/
theorem subOfEqualsIsZeroLimbs : Obligations.SubOfEqualsIsZeroLimbs := fun a =>
  ⟨eq_of_val_eq (by simp) (by rw [val_sub_self, val_replicate_zero]),
    (zeroFormatsToTheEmptyText _).mpr (val_sub_self a)⟩

/-! ### ADD and SUB with valid sources -/

/-- Settles O30: with valid sources ADD's rule is its length check. -/
theorem addWritesTheSumOrReportsCapacity : Obligations.AddWritesTheSumOrReportsCapacity := by
  intro s rd ra rb ha hb
  have hrule : addRule rd ra rb s = _ := withSources_valid ha hb _
  refine ⟨fun hfit => ⟨_, exec_add rd ra rb s, ?_⟩, fun hlong => ⟨_, exec_add rd ra rb s, ?_⟩⟩
  · rw [hrule, if_neg (Nat.not_lt.mpr hfit)]
    exact s.wroteNumber_complete rd _ s.draws
  · rw [hrule, if_pos hlong]
    exact s.raised_complete .capacity s.draws

/-- Settles O33: with valid sources SUB's rule writes the difference. -/
theorem subWritesTheDifference : Obligations.SubWritesTheDifference := by
  intro s rd ra rb ha hb
  have hrule : subRule rd ra rb s = .number rd (sub (s.num ra).limbs (s.num rb).limbs) := withSources_valid ha hb _
  refine ⟨_, exec_sub rd ra rb s, ?_⟩
  rw [hrule]
  exact s.wroteNumber_complete rd _ s.draws

end Sys2Proof.Machine
end

section
/-!
PROOFS. The function mul is exact (43_mul.md R152, R153), which makes it commutative and associative (R156), and the
command MUL with valid sources (R150, R155).
-/

namespace Sys2Proof.Machine

/-! ### The inner loop -/

/-- One step of the inner loop: the limb written, and above it both carries, hold `a · b + c` and the carries before. -/
theorem mulStep_exact (a b c mc : Limb) (ac : BitVec 1) :
    (adc c (muladd a b mc).1 ac).1.toNat +
        2 ^ 64 * ((muladd a b mc).2.toNat + (adc c (muladd a b mc).1 ac).2.toNat) =
      c.toNat + a.toNat * b.toNat + mc.toNat + ac.toNat := by
  have hmul := muladd_exact a b mc
  have hadd := adc_exact c (muladd a b mc).1 ac
  omega

/-- The carries together fit a limb: with `n = 2^64 − 1` the step's total is at most `n · n + n + n < 2^128`
(43_mul.md R153). -/
theorem mulStep_carries_lt (a b c mc : Limb) (ac : BitVec 1) (h : mc.toNat + ac.toNat < 2 ^ 64) :
    (muladd a b mc).2.toNat + (adc c (muladd a b mc).1 ac).2.toNat < 2 ^ 64 := by
  have hexact := mulStep_exact a b c mc ac
  have hle := mul_add_toNat_le a b c
  omega

/-- The inner loop leaves the limbs above the boundary limb as they were. -/
theorem mulInner_append (a : Limb) {bs cs : List Limb} (h : cs.length = bs.length) (z : Limb) (above : List Limb)
    (mc : Limb) (ac : BitVec 1) :
    mulInner a bs (cs ++ z :: above) mc ac = mulInner a bs (cs ++ [z]) mc ac ++ above := by
  induction bs generalizing cs mc ac with
  | nil =>
    obtain rfl := List.length_eq_zero_iff.mp h
    rfl
  | cons b bs ih =>
    cases cs with
    | nil => cases h
    | cons c cs => simp only [List.cons_append, mulInner, ih (Nat.succ.inj h)]

/-- The inner loop adds `a · val(B)` and the carries it starts with; the boundary write discards no bit
(43_mul.md R153). -/
theorem mulInner_exact (a : Limb) {bs cs : List Limb} (h : cs.length = bs.length) {mc : Limb} {ac : BitVec 1}
    (hcarry : mc.toNat + ac.toNat < 2 ^ 64) :
    val (mulInner a bs (cs ++ [0]) mc ac) = val cs + a.toNat * val bs + mc.toNat + ac.toNat := by
  induction bs generalizing cs mc ac with
  | nil =>
    obtain rfl := List.length_eq_zero_iff.mp h
    simp only [List.nil_append, mulInner, val, BitVec.toNat_ofNat]
    omega
  | cons b bs ih =>
    cases cs with
    | nil => cases h
    | cons c cs =>
      have hstep := mulStep_exact a b c mc ac
      have hrest := ih (Nat.succ.inj h) (mulStep_carries_lt a b c mc ac hcarry)
      simp only [List.cons_append, mulInner, val, hrest]
      linear_combination hstep

/-! ### The outer loop -/

/-- One iteration makes the limb at its own position final and passes the limbs above it on. -/
theorem mulOuter_cons {a low : Limb} {b c rest : List Limb} (h : mulInner a b c 0 0 = low :: rest) (as : List Limb) :
    mulOuter (a :: as) b c = low :: mulOuter as b rest := by
  rw [mulOuter, h]

/-- The outer loop adds `val(A) · val(B)` to the part of the result that earlier iterations have written, where the
limbs above that part are still 0 (43_mul.md R153). -/
theorem mulOuter_exact (as : List Limb) {b cs : List Limb} (h : cs.length = b.length) :
    val (mulOuter as b (cs ++ List.replicate as.length 0)) = val cs + val as * val b := by
  induction as generalizing cs with
  | nil => simp [mulOuter, val]
  | cons a as ih =>
    have hlen : (mulInner a b (cs ++ [0]) 0 0).length = b.length + 1 := by simp [h]
    have hinner : val (mulInner a b (cs ++ [0]) 0 0) = val cs + a.toNat * val b := mulInner_exact a h (by decide)
    obtain ⟨low, rest, hc⟩ := List.exists_cons_of_length_eq_add_one hlen
    have hiter : mulInner a b (cs ++ List.replicate (a :: as).length 0) 0 0 =
        low :: (rest ++ List.replicate as.length 0) := by
      rw [List.length_cons, List.replicate_succ, mulInner_append a h, hc, List.cons_append]
    rw [hc] at hlen
    rw [hc, val] at hinner
    rw [mulOuter_cons hiter, val, ih (Nat.succ.inj hlen), val]
    linear_combination hinner

/-! ### mul -/

theorem val_mul (a b : List Limb) : val (mul a b) = val a * val b := by
  rw [mul, Nat.add_comm, List.replicate_add, mulOuter_exact a List.length_replicate, val_replicate_zero, Nat.zero_add]

/-- Length and value determine the product. -/
theorem eq_mul_of_val_eq {a b c : List Limb} (hlen : c.length = a.length + b.length) (hval : val c = val a * val b) :
    c = mul a b :=
  eq_of_val_eq (hlen.trans (mul_length a b).symm) (hval.trans (val_mul a b).symm)

/-- Settles O34: the loops add `val(A) · val(B)` to a result of `len(A) + len(B)` zero limbs. -/
theorem mulIsTheExactProduct : Obligations.MulIsTheExactProduct := fun a b =>
  ⟨mul_length a b, val_mul a b, fun _ => eq_mul_of_val_eq⟩

theorem mul_comm_limbs (a b : List Limb) : mul a b = mul b a :=
  eq_mul_of_val_eq (by rw [mul_length, Nat.add_comm]) (by rw [val_mul, Nat.mul_comm])

theorem mul_assoc_limbs (a b c : List Limb) : mul (mul a b) c = mul a (mul b c) :=
  eq_mul_of_val_eq (by simp only [mul_length, Nat.add_assoc]) (by simp only [val_mul, Nat.mul_assoc])

/-- `parse("1")` is one limb of value 1 (41_parse.md R117). -/
theorem parse_one : parse [0x31#8] = .ok [0x1] := rfl

/-- Settles O35: length and value, which determine the product, are those of `+` and `·`. -/
theorem mulCommutesAndAssociates : Obligations.MulCommutesAndAssociates := by
  refine ⟨mul_comm_limbs, fun a b c => ⟨mul_assoc_limbs a b c, by rw [mul_length, mul_length]⟩, fun a one hone => ?_⟩
  obtain rfl : [0x1] = one := Except.ok.inj (parse_one.symm.trans hone)
  have hval : val [0x1] = 1 := rfl
  exact ⟨by rw [val_mul, hval, Nat.mul_one], mul_length a [0x1]⟩

/-! ### MUL with valid sources -/

theorem mulRule_valid {s : State} {ra rb : Reg} (ha : (s.num ra).valid = true) (hb : (s.num rb).valid = true)
    (rd : Reg) :
    mulRule rd ra rb s = if s.maxLimbs < (s.num ra).len + (s.num rb).len then .error .capacity
      else .number rd (mul (s.num ra).limbs (s.num rb).limbs) :=
  withSources_valid ha hb _

/-- Settles O36: with valid sources MUL's rule is its length check. -/
theorem mulWritesTheProductOrReportsCapacity : Obligations.MulWritesTheProductOrReportsCapacity := by
  intro s rd ra rb ha hb
  refine ⟨fun hfit => ⟨_, exec_mul rd ra rb s, ?_⟩, fun hlong => ⟨_, exec_mul rd ra rb s, ?_⟩⟩
  · rw [mulRule_valid ha hb, if_neg (Nat.not_lt.mpr hfit)]
    exact s.wroteNumber_complete rd _ s.draws
  · rw [mulRule_valid ha hb, if_pos hlong]
    exact s.raised_complete .capacity s.draws

end Sys2Proof.Machine
end

section
/-!
PROOFS. The function pow is the exact power (44_pow.md R164, R166), which with its length gives its recurrence (R168),
and the command POW with a valid source (R163, R167).
-/

namespace Sys2Proof.Machine

theorem val_one : val [0x1] = 1 := rfl

/-- A round multiplies by the base exactly when bit 0 of the exponent is set (44_pow.md R164). -/
theorem val_powRound (result base : List Limb) (e : Word) :
    val (if e.getLsbD 0 then mul result base else result) = val result * val base ^ (e.toNat % 2) := by
  rcases Nat.mod_two_eq_zero_or_one e.toNat with hbit | hbit
  · simp [BitVec.getLsbD, Nat.testBit_zero, hbit]
  · simp [BitVec.getLsbD, Nat.testBit_zero, hbit, val_mul]

/-- A round that takes bit 0 of `e` and shifts it out leaves `val(result) · val(base)^e` as it was. -/
theorem val_powLoop (n : Nat) (result base : List Limb) (e : Word) (h : e.toNat < 2 ^ n) :
    val (powLoop n result base e) = val result * val base ^ e.toNat := by
  induction n generalizing result base e with
  | zero =>
    have he : e.toNat = 0 := by omega
    rw [powLoop, he, Nat.pow_zero, Nat.mul_one]
  | succ n ih =>
    have hshift : (e >>> 1).toNat = e.toNat / 2 := by simp [Nat.shiftRight_eq_div_pow]
    have hsplit : val base ^ e.toNat = val base ^ (e.toNat % 2) * (val base * val base) ^ (e.toNat / 2) := by
      rw [← Nat.pow_two, ← Nat.pow_mul, ← Nat.pow_add, Nat.mod_add_div]
    rw [hsplit, ← Nat.mul_assoc, ← val_powRound, ← hshift, powLoop]
    split
    case isTrue hzero => simp [hzero]
    case isFalse => rw [ih _ _ _ (by omega), val_mul]

theorem val_pow (base : List Limb) (e : Word) : val (pow base e) = val base ^ e.toNat := by
  rw [pow, val_powLoop 64 _ _ _ e.isLt, val_one, Nat.one_mul]

/-- Both sides have length `1 + len(Base) · n` and value `val(Base)^n` (44_pow.md R168). -/
theorem pow_eq_mul_pow_pred (base : List Limb) {n : Word} (hn : n ≠ 0) : pow base n = mul (pow base (n - 1)) base := by
  have hpred : n.toNat = (n - 1).toNat + 1 := by bv_omega
  apply eq_mul_of_val_eq
  · rw [pow_length, pow_length, hpred, Nat.mul_succ, Nat.add_assoc]
  · rw [val_pow, val_pow, hpred, Nat.pow_succ]

/-- Settles O37: length and value of the power, which determine it, and the recurrence at 1 for `pow(B, 1)`. -/
theorem powMeetsItsRecurrence : Obligations.PowMeetsItsRecurrence := by
  intro base
  have hzero : pow base 0 = [0x1] := rfl
  have hone : pow base 1 = mul [0x1] base := pow_eq_mul_pow_pred base (by decide)
  refine ⟨hzero, parse_one, hone, ?_, ?_, fun n hn => ⟨pow_eq_mul_pow_pred base hn, pow_length base n, val_pow base n⟩⟩
  · rw [hone, val_mul, val_one, Nat.one_mul]
  · rw [hone, mul_length, List.length_singleton, Nat.add_comm]

/-! ### POW with a valid source -/

theorem powRule_valid {s : State} {ra : Reg} (ha : (s.num ra).valid = true) (rd : Reg) :
    powRule rd ra s = if s.maxLimbs < 1 + (s.num ra).len * s.exp.toNat then .error .capacity
      else .number rd (pow (s.num ra).limbs s.exp) :=
  withSource_valid ha _

/-- Settles O38: with a valid source POW's rule is its length check. -/
theorem powWritesThePowerOrReportsCapacity : Obligations.PowWritesThePowerOrReportsCapacity := by
  intro s rd ra ha
  refine ⟨fun hfit => ⟨_, exec_pow rd ra s, ?_⟩, fun hlong => ⟨_, exec_pow rd ra s, ?_⟩⟩
  · rw [powRule_valid ha, if_neg (Nat.not_lt.mpr hfit)]
    exact s.wroteNumber_complete rd _ s.draws
  · rw [powRule_valid ha, if_pos hlong]
    exact s.raised_complete .capacity s.draws

end Sys2Proof.Machine
end

section
/-!
PROOFS. Errors: a command that ends with one writes nothing but STATUS, an illegal word ends with ILLEGAL, and an
unwritten source with UNWRITTEN, which no command without number sources reports (60_exceptions.md R180, R183, R184,
R187).
-/

namespace Sys2Proof.Machine

/-! ### Error outcomes -/

/-- Settles O11: of the three ways a rule ends, only an error leaves an error code, and its completion is `raise`. -/
theorem errorsWriteNothing : Obligations.ErrorsWriteNothing := by
  intro i s t hexec hcode
  obtain ⟨r, d, h, _⟩ := exec_completes i s
  obtain rfl : _ = t := Host.Outcome.next.inj (h.symm.trans hexec)
  cases r with
  | number rd n => exact absurd rfl hcode
  | scalars lo hi => exact absurd rfl hcode
  | error e => exact s.raised_complete e d

/-! ### Illegal words -/

theorem step_engineTurn_running {s : State} {rest : List Event} (he : s.engine = .running)
    (hi : s.inputs = .engineTurn :: rest) : step s = State.engineComplete { s with inputs := rest } :=
  (step_engineTurn hi).trans (State.engineTurn_running he)

theorem State.engineComplete_illegal {s : State} (h : decode s.cmd = none) :
    ∃ t, s.engineComplete = .next t ∧ s.Raised t .illegal 0 := by
  refine ⟨s.raise .illegal, ?_, s.raised_complete .illegal s.draws⟩
  simp [State.engineComplete, h]

/-- Settles O9: both ways the engine gets its turn complete the illegal word. -/
theorem illegalWordCompletesWithIllegal : Obligations.IllegalWordCompletesWithIllegal := by
  refine fun s he hd => ⟨fun hi => ?_, fun rest hi => ?_⟩
  · rw [step_running he hi]
    exact State.engineComplete_illegal hd
  · rw [step_engineTurn_running he hi]
    exact State.engineComplete_illegal (s := { s with inputs := rest }) hd

/-! ### Unwritten sources -/

theorem withSources_unwritten_left {s : State} {ra : Reg} (h : (s.num ra).valid = false) (rb : Reg)
    (rule : List Limb → List Limb → CmdResult) : withSources s ra rb rule = .error (.unwritten ra) :=
  withSource_unwritten h _

theorem withSources_unwritten_right {s : State} {ra rb : Reg} (ha : (s.num ra).valid = true)
    (hb : (s.num rb).valid = false) (rule : List Limb → List Limb → CmdResult) :
    withSources s ra rb rule = .error (.unwritten rb) := by
  rw [withSources, withSource_valid ha, withSource_unwritten hb]

/-- A command whose rule ends with an error raises it. -/
theorem exec_raised {i : Instr} {s : State} {r : CmdResult} {e : CmdError} (hexec : exec i s = .next (s.complete r))
    (hr : r = .error e) : ∃ t, exec i s = .next t ∧ s.Raised t e.code e.info :=
  ⟨_, hexec, hr ▸ s.raised_complete e s.draws⟩

theorem parseRule_ne_unwritten (rd : Reg) (s : State) (r : Reg) : parseRule rd s ≠ .error (.unwritten r) := by
  obtain ⟨_, h⟩ | ⟨_, _, _, h⟩ | ⟨_, _, h⟩ := parseRule_cases rd s <;> rw [h] <;> nofun

theorem State.complete_errCode_eq_unwritten {s : State} {r : CmdResult} (h : (s.complete r).errCode = .unwritten) :
    ∃ ra, r = .error (.unwritten ra) := by
  cases r with
  | number rd n => cases h
  | scalars lo hi => cases h
  | error e =>
    cases e with
    | unwritten ra => exact ⟨ra, rfl⟩
    | illegal | capacity | parse => cases h

/-! ### Commands that read no number register -/

/-- A completion over other number registers writes the same: SLO and SHI, STATUS, and the number of `x[rd]`. -/
theorem State.complete_x (s : State) (x : Vector NumReg 16) (r : CmdResult) :
    State.complete { s with x := x } r = { s.complete r with x := (State.complete { s with x := x } r).x } := by
  cases r <;> rfl

/-- A number that PARSE writes goes to the register it names, so there the old number registers do not show. -/
theorem State.complete_parseRule_num (s u : State) (rd : Reg) (h : (s.complete (parseRule rd s)).errCode = .none) :
    (u.complete (parseRule rd s)).num rd = (s.complete (parseRule rd s)).num rd := by
  obtain ⟨_, hr⟩ | ⟨_, _, _, hr⟩ | ⟨_, _, hr⟩ := parseRule_cases rd s <;> rw [hr] at h ⊢
  · cases h
  · cases h
  · exact (u.num_setNum_same rd _).trans (s.num_setNum_same rd _).symm

/-- Settles O39: the source checks of the four number commands, RA first; the rules of PARSE, ADC and MULADD do not look
at the number registers. -/
theorem unwrittenSourcesAreReported : Obligations.UnwrittenSourcesAreReported := by
  refine ⟨fun s rd ra rb ha => ⟨?_, ?_, ?_, ?_⟩, fun s rd ra rb ha hb => ⟨?_, ?_, ?_⟩, fun s t rd h hcode => ?_,
    fun s t h => ?_, fun s t h => ?_, fun s x rd => ?_, fun s x => ⟨⟨_, rfl, rfl⟩, ⟨_, rfl, rfl⟩⟩⟩
  · exact exec_raised (exec_add rd ra rb s) (withSources_unwritten_left ha rb _)
  · exact exec_raised (exec_sub rd ra rb s) (withSources_unwritten_left ha rb _)
  · exact exec_raised (exec_mul rd ra rb s) (withSources_unwritten_left ha rb _)
  · exact exec_raised (exec_pow rd ra s) (withSource_unwritten ha _)
  · exact exec_raised (exec_add rd ra rb s) (withSources_unwritten_right ha hb _)
  · exact exec_raised (exec_sub rd ra rb s) (withSources_unwritten_right ha hb _)
  · exact exec_raised (exec_mul rd ra rb s) (withSources_unwritten_right ha hb _)
  · obtain rfl : _ = t := Host.Outcome.next.inj h
    obtain ⟨ra, hr⟩ := State.complete_errCode_eq_unwritten (s := s) hcode
    exact parseRule_ne_unwritten rd s ra hr
  · obtain rfl : _ = t := Host.Outcome.next.inj h
    nofun
  · obtain rfl : _ = t := Host.Outcome.next.inj h
    nofun
  · exact ⟨_, _, exec_parse rd s, exec_parse rd { s with x := x },
      congrArg State.drawn (s.complete_x x (parseRule rd s)), s.complete_parseRule_num { s with x := x } rd⟩

end Sys2Proof.Machine
end

section
/-!
PROOFS. Access errors stay recorded: the log of responses only grows (60_exceptions.md R190; log 9).
-/

namespace Sys2Proof.Machine

theorem State.engineComplete_responses {s t : State} (h : s.engineComplete = .next t) : t.responses = s.responses := by
  obtain ⟨_, h'⟩ | ⟨_, res, d, _, _, h', _⟩ := engineComplete_cases s <;> rw [h'] at h <;> cases h
  · rfl
  · exact (s.keepsControl_complete res d).responses

/-- A host access adds its one response. -/
theorem State.hostAccess_responses {s t : State} {a : Access} (h : s.hostAccess a = .next t) :
    ∃ r, t.responses = r :: s.responses := by
  obtain ⟨_, h'⟩ | ⟨_, _, h'⟩ | ⟨_, _, _, h'⟩ | ⟨v, _, _, _, h'⟩ := hostAccess_cases s a <;> rw [h'] at h <;> cases h
  · exact ⟨_, rfl⟩
  · exact ⟨_, rfl⟩
  · obtain ⟨_, _, _, _, _, hresponses, _⟩ := hostWrite_keeps s (winReg a.off) v
    exact ⟨.written, congrArg _ hresponses⟩

/-- No step takes a response away. -/
theorem step_responses_suffix {s t : State} (h : step s = .next t) : s.responses <:+ t.responses := by
  obtain ⟨_, _, rfl⟩ | ⟨_, _, hc⟩ | ⟨rest, _, _, rfl⟩ | ⟨rest, _, _, hc⟩ | ⟨rest, _, rfl⟩ | ⟨a, rest, _, _, ha⟩ :=
    step_cases h
  · exact List.suffix_rfl
  · rw [State.engineComplete_responses hc]
  · exact List.suffix_rfl
  · rw [State.engineComplete_responses hc]
  · exact List.suffix_rfl
  · obtain ⟨r, hr⟩ := State.hostAccess_responses ha
    rw [hr]
    exact List.suffix_cons r s.responses

/-- Settles O22: an error among the responses is still among the longer ones. -/
theorem accessFaultsAreNeverCleared : Obligations.AccessFaultsAreNeverCleared := by
  intro s t h hfault
  rw [State.noAccessFault, List.all_eq_false] at hfault ⊢
  obtain ⟨r, hr, hbad⟩ := hfault
  exact ⟨r, (step_responses_suffix h).mem hr, hbad⟩

end Sys2Proof.Machine
end

section
/-!
PROOFS. What the host does while a command runs moves OVERRUN, NSEL and the model's own fields only, and no command's
outcome depends on them but for the free values of unwritten text (60_exceptions.md R199, 10_state.md R41).
-/

namespace Sys2Proof.Machine

/-! ### The host's accesses while a command runs -/

/-- `t` is `s` but for what an access can move while a command runs: OVERRUN, NSEL, and the model's log and
counter. -/
def State.SameToEngine (s t : State) : Prop :=
  ∃ o n rs d, t = { s with overrun := o, nsel := n, responses := rs, draws := d }

theorem State.SameToEngine.refl (s : State) : s.SameToEngine s := ⟨_, _, _, _, rfl⟩

theorem State.SameToEngine.trans {s t u : State} (hst : s.SameToEngine t) (htu : t.SameToEngine u) :
    s.SameToEngine u := by
  obtain ⟨_, _, _, _, rfl⟩ := hst
  obtain ⟨o, n, rs, d, rfl⟩ := htu
  exact ⟨o, n, rs, d, rfl⟩

theorem State.SameToEngine.inputs {s t : State} (h : s.SameToEngine t) (l : List Event) :
    State.SameToEngine { s with inputs := l } { t with inputs := l } := by
  obtain ⟨o, n, rs, d, rfl⟩ := h
  exact ⟨o, n, rs, d, rfl⟩

theorem State.SameToEngine.engine_eq {s t : State} (h : s.SameToEngine t) : t.engine = s.engine := by
  obtain ⟨_, _, _, _, rfl⟩ := h
  rfl

theorem State.SameToEngine.inputs_eq {s t : State} (h : s.SameToEngine t) : t.inputs = s.inputs := by
  obtain ⟨_, _, _, _, rfl⟩ := h
  rfl

/-- While a command runs an access of the window is answered, and the engine does not see it (10_state.md R41). -/
theorem hostAccess_running {s : State} {a : Access} (he : s.engine = .running) (ha : a.off < Config.windowSize) :
    ∃ t, s.hostAccess a = .next t ∧ s.SameToEngine t := by
  obtain ⟨hout, _⟩ | ⟨_, _, h⟩ | ⟨_, _, _, h⟩ | ⟨v, _, _, _, h⟩ := hostAccess_cases s a
  · exact absurd ha (Nat.not_lt.mpr hout)
  · exact ⟨_, h, _, _, _, _, rfl⟩
  · exact ⟨_, h, _, _, _, _, rfl⟩
  · obtain ⟨o, n, hw⟩ := hostWrite_running he (winReg a.off) v
    exact ⟨_, h, o, n, _, _, by rw [hw]; rfl⟩

/-- A run through accesses of the window while a command runs, and the `k` steps after it. -/
theorem run_accesses {s : State} {before : List Access} {tail : List Event} (k : Nat) (he : s.engine = .running)
    (hi : s.inputs = before.map .access ++ tail) (hwin : ∀ a ∈ before, a.off < Config.windowSize) :
    ∃ t, core.run (before.length + k) s = core.run k t ∧ State.SameToEngine { s with inputs := tail } t := by
  induction before generalizing s with
  | nil =>
    obtain rfl : s.inputs = tail := hi
    exact ⟨s, by rw [List.length_nil, Nat.zero_add], .refl s⟩
  | cons a before ih =>
    obtain ⟨ha, hwin⟩ := List.forall_mem_cons.mp hwin
    obtain ⟨t, haccess, hst⟩ := hostAccess_running (s := { s with inputs := before.map .access ++ tail }) he ha
    obtain ⟨u, hrun, htu⟩ := ih (hst.engine_eq.trans he) hst.inputs_eq hwin
    refine ⟨u, ?_, (hst.inputs tail).trans htu⟩
    rw [List.length_cons, Nat.add_right_comm, run_next _ ((step_access hi).trans haccess), hrun]

/-! ### The outcome of the running command -/

theorem State.SameToEngine.complete {s t : State} (h : s.SameToEngine t) (r : CmdResult) :
    (t.complete r).SameOutcome (s.complete r) := by
  obtain ⟨_, _, _, _, rfl⟩ := h
  cases r <;> exact ⟨fun _ => rfl, rfl, rfl, rfl, rfl⟩

theorem State.SameOutcome.drawn {t u : State} (h : t.SameOutcome u) : t.drawn.SameOutcome u.drawn :=
  ⟨h.numbers, h.slo, h.shi, h.errCode, h.errInfo⟩

/-- The bytes PARSE reads, if it reads any, have all been written (10_state.md R49; log 6). -/
def State.TextWritten (s : State) : Prop :=
  s.textLen.toNat ≤ s.maxText → ∀ k, k < s.textLen.toNat → (Memory.read s.text k).isSome

/-- Two consultations of written text find the same. -/
theorem State.textOf_eq_of_written {s t : State} {len : Nat} (htext : t.text = s.text)
    (h : ∀ k, k < len → (Memory.read s.text k).isSome) : t.textOf len = s.textOf len := by
  refine List.map_congr_left fun k hk => ?_
  obtain ⟨b, hb⟩ := Option.isSome_iff_exists.mp (h k (List.mem_range.mp hk))
  rw [State.textByte_written hb, State.textByte_written (htext ▸ hb)]

/-- PARSE's rule looks at TEXT_LEN, at MAX_TEXT, and at the text only where it fits. -/
theorem parseRule_congr {s t : State} (rd : Reg) (hlen : t.textLen = s.textLen) (hmax : t.maxText = s.maxText)
    (htext : s.textLen.toNat ≤ s.maxText → t.textOf s.textLen.toNat = s.textOf s.textLen.toNat) :
    parseRule rd t = parseRule rd s := by
  by_cases hfit : s.textLen.toNat ≤ s.maxText
  · simp only [parseRule, hlen, hmax, htext hfit]
  · simp only [parseRule, hlen, hmax, if_pos (Nat.not_le.mp hfit)]

theorem State.SameToEngine.parseRule_eq {s t : State} (h : s.SameToEngine t) (hw : s.TextWritten) (rd : Reg) :
    parseRule rd t = parseRule rd s := by
  obtain ⟨_, _, _, _, rfl⟩ := h
  exact parseRule_congr rd rfl rfl fun hfit => State.textOf_eq_of_written rfl (hw hfit)

/-- No rule reads what an access can move, but for the draw counter, which PARSE consults for unwritten text. -/
theorem exec_sameOutcome {i : Instr} {s t : State} (h : s.SameToEngine t)
    (hw : ∀ rd, i = .parse rd → s.TextWritten) :
    ∃ t' s', exec i t = .next t' ∧ exec i s = .next s' ∧ t'.SameOutcome s' := by
  have hcomplete := h.complete
  have hparse := h.parseRule_eq
  obtain ⟨_, _, _, _, rfl⟩ := h
  cases i with
  | adc => exact ⟨_, _, exec_adc _, exec_adc s, hcomplete (adcRule s)⟩
  | muladd => exact ⟨_, _, exec_muladd _, exec_muladd s, hcomplete (muladdRule s)⟩
  | add rd ra rb => exact ⟨_, _, exec_add rd ra rb _, exec_add rd ra rb s, hcomplete (addRule rd ra rb s)⟩
  | sub rd ra rb => exact ⟨_, _, exec_sub rd ra rb _, exec_sub rd ra rb s, hcomplete (subRule rd ra rb s)⟩
  | mul rd ra rb => exact ⟨_, _, exec_mul rd ra rb _, exec_mul rd ra rb s, hcomplete (mulRule rd ra rb s)⟩
  | pow rd ra => exact ⟨_, _, exec_pow rd ra _, exec_pow rd ra s, hcomplete (powRule rd ra s)⟩
  | parse rd =>
    rw [exec_parse, exec_parse, hparse (hw rd rfl)]
    exact ⟨_, _, rfl, rfl, (hcomplete _).drawn⟩

theorem engineComplete_sameOutcome {s t : State} (h : s.SameToEngine t)
    (hw : ∀ rd, decode s.cmd = some (.parse rd) → s.TextWritten) :
    ∃ t' s', t.engineComplete = .next t' ∧ s.engineComplete = .next s' ∧ t'.SameOutcome s' := by
  have hcmd : t.cmd = s.cmd := by
    obtain ⟨_, _, _, _, rfl⟩ := h
    rfl
  unfold State.engineComplete
  rw [hcmd]
  cases hd : decode s.cmd with
  | none => exact ⟨_, _, rfl, rfl, h.complete (.error .illegal)⟩
  | some i => exact exec_sameOutcome h fun rd hi => hw rd (hi ▸ hd)

/-- Settles O14: up to the engine's turn the engine sees nothing of the accesses, so the completion is the same. -/
theorem hostCannotDisturbARunningCommand : Obligations.HostCannotDisturbARunningCommand := by
  intro s before rest he hi hwin hw
  obtain ⟨t, hrun, hst⟩ := run_accesses 1 he hi hwin
  obtain ⟨t', s', ht, hs, hsame⟩ := engineComplete_sameOutcome (hst.inputs rest) hw
  have hturn : step t = .next t' := (step_engineTurn_running (hst.engine_eq.trans he) hst.inputs_eq).trans ht
  have hatOnce : step { s with inputs := .engineTurn :: rest } = .next s' :=
    (step_engineTurn_running (s := { s with inputs := .engineTurn :: rest }) he rfl).trans hs
  exact ⟨t', s', by rw [hrun, run_next 0 hturn, run_zero], hatOnce, hsame⟩

end Sys2Proof.Machine
end

section
/-!
PROOFS. Reset, the reads of a running command's destination, and the end of a poll loop
(70_reset_and_hazards.md R200, R201, R207, R210).
-/

namespace Sys2Proof.Machine

/-! ### Reset -/

/-- Settles O59: a reset event is the platform reset, with no look at the engine. -/
theorem resetAbandonsTheCommand : Obligations.ResetAbandonsTheCommand := fun _ _ hi => step_reset hi

/-! ### The destination of a running command -/

/-- A read of a running command's destination answers the free value of this consultation
(70_reset_and_hazards.md R207). -/
theorem step_read_pending {s : State} {w : WinReg} {off : Nat} {rest : List Event} (hw : w.StandsAt off)
    (hi : s.inputs = .access ⟨.read, 8, off⟩ :: rest) (hpending : s.readsAnyValue w = true) :
    step s = .next (s.afterRead rest (Config.freeRead s.draws)) := by
  rw [step_read hw hi, State.hostRead, if_pos hpending]

/-- Settles O52: SLO and SHI of a scalar command, NINFO and LIMB[k] of a number command whose destination is
selected. -/
theorem pendingDestinationReadsAnyValue : Obligations.PendingDestinationReadsAnyValue := by
  rintro s off rest he hi (⟨hop, hoff⟩ | ⟨hop, hsel, hoff⟩)
  · have hscalars : s.scalarsPending = true := s.scalarsPending_iff.mpr ⟨he, hop⟩
    obtain rfl | rfl : off = 0x0040 ∨ off = 0x0048 := by simpa using hoff
    · exact step_read_pending (w := .slo) (by decide) hi hscalars
    · exact step_read_pending (w := .shi) (by decide) hi hscalars
  · have hselected : s.selectedPending = true := s.selectedPending_iff.mpr ⟨he, hop, hsel⟩
    obtain rfl | ⟨k, hk, hmax, rfl⟩ := hoff
    · exact step_read_pending (w := .ninfo) (by decide) hi hselected
    · exact step_read_pending (standsAt_limb hk) hi (by simp [State.readsAnyValue, hselected, hmax])

/-! ### The poll loop -/

/-- The engine completes whatever word runs, an illegal one too: BUSY 0, DONE 1, and no event is taken
(10_state.md R42). -/
theorem State.engineComplete_ends (s : State) :
    ∃ t, s.engineComplete = .next t ∧ t.busy = false ∧ t.done = true ∧ t.inputs = s.inputs := by
  obtain ⟨_, h⟩ | ⟨_, r, d, _, _, h, _⟩ := engineComplete_cases s
  · exact ⟨_, h, rfl, rfl, rfl⟩
  · refine ⟨_, h, ?_, s.complete_done r, (s.keepsControl_complete r d).inputs⟩
    simp [State.busy]

theorem State.SameToEngine.cmd_eq {s t : State} (h : s.SameToEngine t) : t.cmd = s.cmd := by
  obtain ⟨_, _, _, _, rfl⟩ := h
  rfl

/-- Settles O13: the accesses leave the engine running its command, and its turn completes it. -/
theorem pollLoopEndsAtTheEnginesTurn : Obligations.PollLoopEndsAtTheEnginesTurn := by
  intro s before rest he hi hwin
  constructor
  · obtain ⟨u, hrun, hsu⟩ := run_accesses 0 he hi hwin
    exact ⟨u, hrun, u.busy_iff.mpr (hsu.engine_eq.trans he), hsu.cmd_eq, hsu.inputs_eq⟩
  · obtain ⟨u, hrun, hsu⟩ := run_accesses 1 he hi hwin
    obtain ⟨t, hcomplete, hends⟩ := State.engineComplete_ends { u with inputs := rest }
    have hturn : step u = .next t := (step_engineTurn_running (hsu.engine_eq.trans he) hsu.inputs_eq).trans hcomplete
    exact ⟨t, by rw [hrun, run_next 0 hturn, run_zero], hends⟩

end Sys2Proof.Machine
end
